-- ==== Sys2Proof/Word.lean ====
section
/-!
DEFINITION. The bit-vector types of the block, one abbreviation for each width the spec gives a register or a
port (`00_scope.md` R10 to R13, `10_state.md` R30).
-/

namespace Sys2Proof

/-- `WIDE_W` = 32 (R10), and the width of a command word (R83). -/
abbrev Word := BitVec 32

/-- `SAMPLE_W` = 24 (R11): one conversion, and the data shift register. -/
abbrev Raw := BitVec 24

/-- `ACC_W` = 40 (R13): the accumulator. -/
abbrev Acc := BitVec 40

/-- `CNT_W` = 16 (R12): a sample count. -/
abbrev Count := BitVec 16

/-- The channel/gain selector (R35, R89). -/
abbrev Selector := BitVec 2

/-- The status code of a response (R46, R92). -/
abbrev StatusCode := BitVec 3

end Sys2Proof
end

