-- ==== Sys2Proof/Config.lean ====
section
/-!
DEFINITION. What one implementation fixes and what the spec leaves open: the open parameters of `00_scope.md`
section 3 (R6, R8, R9, R14, R15) and the values nothing in the spec determines. Each is a constant with no body, so
no proof can see what it is and a statement holds whatever it is.
-/

namespace Sys2Proof

/-- `HOLD - 1` (R8, log entry 3). `HOLD` is any positive integer, so this is any natural number. -/
opaque Config.holdLessOne : Nat

/-- `HOLD` (R8): the number of clock cycles every phase of the clock line lasts. -/
def Config.hold : Nat := Config.holdLessOne + 1

/-- `F_CLK` (R6), in hertz (log entry 10). -/
opaque Config.fClkHz : Nat

/-- `T_PD_MIN` (R9), in nanoseconds (log entry 10). -/
opaque Config.tPdMinNs : Nat

/-- `SLOT_PERIOD` (R14), in units of the external wall clock (log entry 10). -/
opaque Config.slotPeriod : Nat

/-- `T_CONV` (R15), as a number of clock cycles (log entry 10). -/
opaque Config.tConvCycles : Nat

/-- The width in bits of `HOLDCNT` for a given `HOLD` (R30): `max(1, ceil(log2(HOLD)))`; for `n ≥ 1` the
integer `ceil(log2 n)` is the number of binary digits of `n - 1`. -/
def Config.holdCntWidth (hold : Nat) : Nat :=
  max 1 (if hold ≤ 1 then 0 else Nat.log2 (hold - 1) + 1)

/-- `HOLDCNT` (R30, R39; log entry 3): a bit vector of the width the configured `HOLD` asks for. -/
abbrev HoldCount := BitVec (Config.holdCntWidth Config.hold)

/-- The premise about the integrator (R8, R160, R161) for a clock of `fClkHz` hertz and a `T_PD_MIN` of `tPdMinNs`
nanoseconds: `2 µs ≤ HOLD / F_CLK < T_PD_MIN`, cleared of divisions. No rule of the block depends on it (R6). -/
def Config.TimingContractAt (fClkHz hold tPdMinNs : Nat) : Prop :=
  0 < fClkHz ∧ 2 * fClkHz ≤ hold * 1000000 ∧ hold * 1000000000 < tPdMinNs * fClkHz

/-- The premise for the integrator's own parameters (R8, R160, R161). -/
def Config.TimingContract : Prop := Config.TimingContractAt Config.fClkHz Config.hold Config.tPdMinNs

/-- `T_SETTLE_MIN` = 2 µs (R7) as a number of cycles of a clock of `fClkHz` hertz, rounded up. -/
def Config.settleCyclesAt (fClkHz : Nat) : Nat := (2 * fClkHz + 999999) / 1000000

/-- `T_PD_MIN` as a number of clock cycles, rounded down: the line has been high longer than `T_PD_MIN` exactly
when it has been high for more than this many cycles (R79). -/
def Config.pdCyclesAt (fClkHz tPdMinNs : Nat) : Nat := tPdMinNs * fClkHz / 1000000000

/-- The level of `rst_i` in a cycle whose inputs the state does not list (R52: inputs are free; log entry 1). -/
opaque Config.freeRst : Nat → Bool

/-- The level of `cmd_valid_i` in a cycle whose inputs the state does not list (log entry 1). -/
opaque Config.freeCmdValid : Nat → Bool

/-- The word on `cmd_word_i` in a cycle whose inputs the state does not list (log entry 1). -/
opaque Config.freeCmdWord : Nat → BitVec 32

/-- The level of `dout_i` in a cycle whose inputs the state does not list (log entry 1). -/
opaque Config.freeDout : Nat → Bool

/-- The level of `slot_i` in a cycle whose inputs the state does not list (log entry 1). -/
opaque Config.freeSlot : Nat → Bool

/-- The datum an average with a zero divisor would give (log entry 5). R120 and R125: no run reaches one. -/
opaque Config.averageByZero : BitVec 40 → BitVec 32

end Sys2Proof
end

