-- ==== Sys2Proof/Machine/Operands.lean ====
section
/-!
DEFINITION. The operand forms and the integer arithmetic of the block, all of it (`42_average.md` R125): the
selector's pulse table, shifting in a bit, sign and zero extension, exact addition and truncating division.
-/

namespace Sys2Proof.Machine

/-- No channel (R89, R94: `NONE`). -/
def selNone : Selector := 0#2
/-- Channel A, gain 128, the default (R89, R94: `A128`). -/
def selA128 : Selector := 1#2
/-- Channel B, gain 32 (R89, R94: `B32`). -/
def selB32 : Selector := 2#2
/-- Channel A, gain 64 (R89, R94: `A64`). -/
def selA64 : Selector := 3#2

/-- `pulses(s)`: the post-read clock pulses of a selector, by the table of R89 (R90). -/
def pulses (s : Selector) : Nat :=
  if s = selNone then 0
  else if s = selA128 then 1
  else if s = selB32 then 2
  else 3

/-- `pulses(s) − 1` as `PULSECNT` holds it (R38, R107); loaded only when `pulses(s) ≥ 1`. -/
def pulsesAfterFirst (s : Selector) : BitVec 2 := BitVec.ofNat 2 (pulses s - 1)

/-- `{SHIFT[22:0], dout_i}` (R36, R106). -/
def shiftIn (shift : Raw) (bit : Bool) : Raw := shift.extractLsb' 0 23 ++ BitVec.ofBool bit

/-- `sext_32` of a raw 24-bit word (R17, R111). -/
def sext32 (w : Raw) : Word := w.signExtend 32

/-- `sext_40` of a sample (R17, R119). -/
def sext40 (w : Word) : Acc := w.signExtend 40

/-- `zext_32` of a selector (R17, R93). -/
def zext32 (s : Selector) : Word := s.zeroExtend 32

/-- `ACC + sext_40(SAMPLE)` (R119). -/
def accumulate (acc : Acc) (sample : Word) : Acc := acc + sext40 sample

/-- `tdiv(a, b)` (R18, R121): `floor(a / b)` for `a ≥ 0` and `−floor(−a / b)` for `a < 0`. -/
def tdiv (a : Int) (b : Nat) : Int := if 0 ≤ a then a / (b : Int) else -((-a) / (b : Int))

/-- `sext_32(tdiv(int(ACC), uint(COUNT)))` (R120). A zero divisor cannot occur on a run (R116, R125); what it
would give is left free (log entry 5). -/
def average (acc : Acc) (count : Count) : Word :=
  if count = 0#16 then Config.averageByZero acc
  else BitVec.ofInt 32 (tdiv acc.toInt count.toNat)

end Sys2Proof.Machine
end

