-- ==== Sys2Proof/Machine/State.lean ====
section
/-!
DEFINITION. The state of the block: the sixteen elements of `10_state.md` R30, and the model's own two fields,
which hold the inputs of the coming cycles and the number of the present one (R19, R52; log entries 1 and 2). Plain data.
-/

namespace Sys2Proof.Machine

/-- The sequencer state `ST` (R31): the ten values the hardware has. The model-only value `FAULT` of R32 is the
outcome `Host.Outcome.fault` (log entry 4). -/
inductive SeqState where
  | idle
  | waitSlot
  | waitRdy
  | bitHi
  | bitLo
  | pulseHi
  | pulseLo
  | done
  | div
  | pdLo
  deriving DecidableEq, Repr

/-- The inputs of one cycle, `I_n` of R96 (R22, R23, R25, R26), as the block sees them (R162; log entry 11). `clk_i` is
the step itself (R21). -/
structure PortInputs where
  rst_i       : Bool
  cmd_valid_i : Bool
  cmd_word_i  : BitVec 32
  dout_i      : Bool
  slot_i      : Bool
  deriving DecidableEq, Repr

/-- The state (R30). -/
structure State where
  /-- `ST` (R31). -/
  st : SeqState
  /-- `SCK`, the clock-line register (R33). -/
  sck : Bool
  /-- `PWR` (R34): false is Normal, true is PoweredDown. -/
  pwr : Bool
  /-- `SEL`, the channel/gain selector (R35). -/
  sel : BitVec 2
  /-- `SHIFT`, the data shift register (R36). -/
  shift : BitVec 24
  /-- `BITCNT` (R37). -/
  bitCnt : BitVec 5
  /-- `PULSECNT` (R38). -/
  pulseCnt : BitVec 2
  /-- `HOLDCNT` (R39), of the width R30 gives it for the open `HOLD`. -/
  holdCnt : HoldCount
  /-- `SAMPLE`, signed (R40). -/
  sample : BitVec 32
  /-- `ACC`, signed (R41). -/
  acc : BitVec 40
  /-- `COUNT` (R42). -/
  count : BitVec 16
  /-- `REMAIN` (R43). -/
  remain : BitVec 16
  /-- `AVGMODE` (R44). -/
  avgMode : Bool
  /-- `RSPV` (R45). -/
  rspv : Bool
  /-- `RSTAT` (R46). -/
  rstat : BitVec 3
  /-- `RDATA` (R47). -/
  rdata : BitVec 32
  /-- The model's own (log entry 1): the inputs of the coming cycles, this cycle's first. A cycle that is not listed
  has free inputs. -/
  inputs : List PortInputs
  /-- The model's own (log entry 2): the number `n` of the present cycle (R19). -/
  cycle : Nat
  deriving DecidableEq, Repr

/-- `RESET_STATE` (R156, R30; log entry 8), in cycle 0 with no input listed. -/
def State.reset : State :=
  { st := .idle, sck := false, pwr := false, sel := 1#2,
    shift := 0#24, bitCnt := 0#5, pulseCnt := 0#2, holdCnt := 0#_,
    sample := 0#32, acc := 0#40, count := 0#16, remain := 0#16, avgMode := false,
    rspv := false, rstat := 0#3, rdata := 0#32,
    inputs := [], cycle := 0 }

/-- Why the machine stops. -/
inductive Fault where
  /-- Raised by `execRdraw` and `execRdavg` when a read is accepted while `PWR` = 1 (R136). It is the model-only
  `FAULT` of R32: the hardware's behaviour is undefined there, so stopping is safe. -/
  | readWhilePoweredDown
  deriving DecidableEq, Repr

/-- Why an instruction has no meaning in this model. -/
inductive Refusal where
  /-- Raised by `exec` alone, for a command whose meaning is not written. No arm of `exec` raises it now. Safe. -/
  | notModelled (mnemonic : String)
  deriving DecidableEq, Repr

end Sys2Proof.Machine
end

