-- ==== Sys2Proof/Machine/Flags.lean ====
section
/-!
DEFINITION. The status codes of a response (`30_encoding.md` R92) and the outputs of the block (`40_sequencer.md`
R97). The block has no condition codes (`10_state.md` R50).
-/

namespace Sys2Proof.Machine

/-- The three statuses the block produces (R92). -/
inductive Status where
  | ok
  | preconditionViolation
  | illegalCommand
  deriving DecidableEq, Repr

/-- The code of a status on `rsp_status_o` (R92). -/
def statusCode : Status → BitVec 3
  | .ok => 0#3
  | .preconditionViolation => 1#3
  | .illegalCommand => 2#3

/-- The outputs of one cycle (R24, R26, R27, R28). -/
structure PortOutputs where
  sck_o        : Bool
  cmd_ready_o  : Bool
  busy_o       : Bool
  rsp_valid_o  : Bool
  rsp_status_o : BitVec 3
  rsp_data_o   : BitVec 32
  deriving DecidableEq, Repr

/-- Outputs are functions of the state alone (R97). -/
def outputs (s : State) : PortOutputs :=
  { sck_o := s.sck,
    cmd_ready_o := decide (s.st = .idle),
    busy_o := decide (s.st ≠ .idle),
    rsp_valid_o := s.rspv,
    rsp_status_o := s.rstat,
    rsp_data_o := s.rdata }

end Sys2Proof.Machine
end

