-- ==== Sys2Proof/Machine/Ops.lean ====
section
/-!
DEFINITION. The operations every rule shares: reading the input ports, the frame of a cycle, the response, the
failure response (the block's whole exception mechanism, `60_exceptions.md` R138, which has no return, R148), the phase
timer, and reset.
-/

namespace Sys2Proof.Machine

/-- The free inputs of cycle `n` (R52; log entry 1). -/
def freePort (n : Nat) : PortInputs :=
  { rst_i := Config.freeRst n,
    cmd_valid_i := Config.freeCmdValid n,
    cmd_word_i := Config.freeCmdWord n,
    dout_i := Config.freeDout n,
    slot_i := Config.freeSlot n }

/-- The inputs of the cycle `k` cycles after the present one: the listed ones, else free ones. -/
def portAt (s : State) (k : Nat) : PortInputs := (s.inputs[k]?).getD (freePort (s.cycle + k))

/-- The inputs of the present cycle, `I_n` (R96). -/
def portNow (s : State) : PortInputs := portAt s 0

/-- Put `p` on the input ports in the present cycle. -/
def drive (p : PortInputs) (s : State) : State := { s with inputs := p :: s.inputs.tail }

/-- Offer a command word at the command port of an idle block that is not being reset, in the present cycle: what
acceptance takes (R26). The other two inputs of the cycle stay. -/
def offerCommand (w : BitVec 32) (s : State) : State :=
  drive { portNow s with rst_i := false, cmd_valid_i := true, cmd_word_i := w } { s with st := .idle }

/-- The frame of a cycle (R96): `S' <- S with RSPV <- 0`, and the next cycle's inputs become the present ones. -/
def beginCycle (s : State) : State :=
  { s with rspv := false, inputs := s.inputs.tail, cycle := s.cycle + 1 }

/-- `respond(status, data)` (R99). -/
def respond (status : Status) (data : BitVec 32) (s : State) : State :=
  { s with rspv := true, rstat := statusCode status, rdata := data }

/-- A failure (R138, R139): a response whose status is not `OK`, with datum 0, and nothing else (R141). -/
def failWith (status : Status) (s : State) : State := respond status 0#32 s

/-- `HOLD − 1` as `HOLDCNT` holds it (R39, R100). -/
def holdReload : HoldCount := BitVec.ofNat _ (Config.hold - 1)

/-- Start a phase of the clock line at the given level (R100): `SCK <- level; HOLDCNT <- HOLD − 1`. -/
def startPhase (level : Bool) (s : State) : State :=
  { s with sck := level, holdCnt := holdReload }

/-- One cycle of a phase (R100): count down, and in the cycle that sees 0 do the end-of-phase action. -/
def duringPhase (atEnd : State → State) (s : State) : State :=
  if s.holdCnt ≠ 0#_ then { s with holdCnt := s.holdCnt - 1#_ } else atEnd s

/-- The cycle after one with `rst_i = 1` (R22, R156): the reset state, whatever the state was. The inputs of the
coming cycles and the cycle number are the environment's and go on. -/
def resetCycle (s : State) : State :=
  { State.reset with inputs := s.inputs.tail, cycle := s.cycle + 1 }

end Sys2Proof.Machine
end

