-- ==== Sys2Proof/Machine/Average.lean ====
section
/-!
DEFINITION. The averaged read (`42_average.md`): the command `RDAVG` and the sequencer states that pace, add and
divide.
-/

namespace Sys2Proof.Machine

/-- `RDAVG count`: a count of 0 is refused with `PRECONDITION_VIOLATION` whatever `PWR` is (R116, R146); else acceptance
(R117); while `PWR` = 1 the spec gives the block no behaviour (R136). -/
def execRdavg (count : Count) (s : State) : Host.Outcome State Fault Refusal :=
  if count = 0#16 then .next (failWith .preconditionViolation s)
  else if s.pwr then .fault .readWhilePoweredDown
  else .next { s with avgMode := true, count := count, remain := count, acc := 0#40, st := .waitSlot }

/-- State `WAIT_SLOT` (R118). -/
def waitSlotRule (p : PortInputs) (s : State) : State :=
  if p.slot_i then { s with st := .waitRdy } else s

/-- State `DONE` with `AVGMODE` = 1 (R119); the test is on `REMAIN` before the decrement. -/
def doneAverageRule (s : State) : State :=
  { s with
    acc := accumulate s.acc s.sample,
    remain := s.remain - 1#16,
    st := if s.remain = 1#16 then .div else .waitSlot }

/-- State `DIV` (R120), one cycle as in the reference machine (log entry 6). -/
def divRule (s : State) : State := respond .ok (average s.acc s.count) { s with st := .idle }

end Sys2Proof.Machine
end

