-- ==== Sys2Proof/Machine/Control.lean ====
section
/-!
DEFINITION. The control commands (`43_control.md`): `SETCG`, `GETCG`, `PWRDN` with its state `PD_LO`, `PWRUP`.
-/

namespace Sys2Proof.Machine

/-- `SETCG sel` (R128, R130). -/
def execSetcg (sel : Selector) (s : State) : Host.Outcome State Fault Refusal :=
  .next (respond .ok (zext32 sel) { s with sel := sel })

/-- `GETCG` (R129). -/
def execGetcg (s : State) : Host.Outcome State Fault Refusal :=
  .next (respond .ok (zext32 s.sel) s)

/-- `PWRDN` accepted, in either power state (R132, R135). -/
def execPwrdn (s : State) : Host.Outcome State Fault Refusal :=
  .next { startPhase false s with st := .pdLo }

/-- The end of the low phase of `PWRDN` (R133). -/
def pdLoEnd (s : State) : State :=
  respond .ok 0#32 { s with sck := true, pwr := true, st := .idle }

/-- State `PD_LO` (R133). -/
def pdLoRule (s : State) : State := duringPhase pdLoEnd s

/-- `PWRUP`, in either power state (R134). -/
def execPwrup (s : State) : Host.Outcome State Fault Refusal :=
  .next (respond .ok 0#32 { s with sck := false, pwr := false })

end Sys2Proof.Machine
end

