-- ==== Sys2Proof/Machine/Readout.lean ====
section
/-!
DEFINITION. The raw read (`41_readout.md`): the command `RDRAW` and the sequencer states of a frame, which `RDAVG`
runs too.
-/

namespace Sys2Proof.Machine

/-- Acceptance of `RDRAW` (R104); while `PWR` = 1 the spec gives the block no behaviour (R136). -/
def execRdraw (s : State) : Host.Outcome State Fault Refusal :=
  if s.pwr then .fault .readWhilePoweredDown
  else .next { s with avgMode := false, st := .waitRdy }

/-- State `WAIT_RDY` (R105). -/
def waitRdyRule (p : PortInputs) (s : State) : State :=
  if p.dout_i then s
  else { startPhase true s with bitCnt := 0#5, st := .bitHi }

/-- The end of the high phase of a data pulse (R106): sample the data line, then fall. -/
def bitHiEnd (p : PortInputs) (s : State) : State :=
  { startPhase false s with shift := shiftIn s.shift p.dout_i, st := .bitLo }

/-- State `BIT_HI` (R106). -/
def bitHiRule (p : PortInputs) (s : State) : State := duringPhase (bitHiEnd p) s

/-- The end of the low phase of a data pulse (R107): the next data pulse, or after the 24th the sample (R111) and the
first selector pulse, or `DONE` when there is none (R113). -/
def bitLoEnd (s : State) : State :=
  if s.bitCnt ≠ 23#5 then
    { startPhase true s with bitCnt := s.bitCnt + 1#5, st := .bitHi }
  else if pulses s.sel = 0 then
    { s with sample := sext32 s.shift, st := .done }
  else
    { startPhase true s with sample := sext32 s.shift, pulseCnt := pulsesAfterFirst s.sel, st := .pulseHi }

/-- State `BIT_LO` (R107). -/
def bitLoRule (s : State) : State := duringPhase bitLoEnd s

/-- The end of the high phase of a selector pulse (R108). -/
def pulseHiEnd (s : State) : State := { startPhase false s with st := .pulseLo }

/-- State `PULSE_HI` (R108). -/
def pulseHiRule (s : State) : State := duringPhase pulseHiEnd s

/-- The end of the low phase of a selector pulse (R109). -/
def pulseLoEnd (s : State) : State :=
  if s.pulseCnt ≠ 0#2 then
    { startPhase true s with pulseCnt := s.pulseCnt - 1#2, st := .pulseHi }
  else
    { s with st := .done }

/-- State `PULSE_LO` (R109). -/
def pulseLoRule (s : State) : State := duringPhase pulseLoEnd s

/-- State `DONE` with `AVGMODE` = 0 (R110). -/
def doneRawRule (s : State) : State := respond .ok s.sample { s with st := .idle }

end Sys2Proof.Machine
end

