-- ==== Sys2Proof/Syntax.lean ====
section
/-!
DEFINITION. The commands of the block: one constructor for each row of `30_encoding.md` R86. The operands carry
the widths R85 gives them, so a command with an operand out of range cannot be written.
-/

namespace Sys2Proof

/-- The six commands (R86, R94). -/
inductive Instr where
  /-- `RDRAW`: read one raw sample (R103). -/
  | rdraw
  /-- `RDAVG count`: average `count` raw samples (R115); the operand is all of `ARG`, unsigned (R85). -/
  | rdavg (count : Count)
  /-- `SETCG sel`: set the channel/gain selector (R128); the operand is `ARG[1:0]` (R85). -/
  | setcg (sel : Selector)
  /-- `GETCG`: read the channel/gain selector (R129). -/
  | getcg
  /-- `PWRDN`: put the device in its low-power mode (R132). -/
  | pwrdn
  /-- `PWRUP`: return the device to normal operation (R134). -/
  | pwrup
  deriving DecidableEq, Repr

end Sys2Proof
end

