-- ==== Sys2Proof/Machine/Dispatch.lean ====
section
/-! DEFINITION. What an accepted command does in the cycle of its acceptance (`40_sequencer.md` R98): one arm a command. -/

namespace Sys2Proof.Machine

def exec (i : Instr) (s : State) : Host.Outcome State Fault Refusal :=
  match i with
  | .rdraw => Sys2Proof.Machine.execRdraw s
  | .rdavg count => Sys2Proof.Machine.execRdavg count s
  | .setcg sel => Sys2Proof.Machine.execSetcg sel s
  | .getcg => Sys2Proof.Machine.execGetcg s
  | .pwrdn => Sys2Proof.Machine.execPwrdn s
  | .pwrup => Sys2Proof.Machine.execPwrup s

end Sys2Proof.Machine
end

