-- ==== Sys2Proof/WellFormed.lean ====
section
/-!
DEFINITION. The fields of a command word and the checks a word must pass to be a command (`30_encoding.md` R84,
R85, R87). A term of `Instr` needs no check of its own: its operand types hold exactly the values R85 allows.
-/

namespace Sys2Proof

/-- The fields of format `CW32` (R84): `OP` = bits 31:28, `RSV` = bits 27:16, `ARG` = bits 15:0. -/
structure CW32 where
  op  : BitVec 4
  rsv : BitVec 12
  arg : BitVec 16
  deriving DecidableEq, Repr

/-- The opcode is one of the six R86 assigns: not 0 and not 7 to 15 (R87). -/
def CW32.opcodeAssigned (f : CW32) : Bool := 1 ≤ f.op.toNat && f.op.toNat ≤ 6

/-- The reserved field is 0 (R84). -/
def CW32.reservedZero (f : CW32) : Bool := f.rsv == 0#12

/-- The operand field suits the opcode (R85): any value for `RDAVG`, `ARG[15:2] = 0` for `SETCG`, 0 for
every other. -/
def CW32.operandSuits (f : CW32) : Bool :=
  match f.op.toNat with
  | 2 => true
  | 3 => f.arg.extractLsb' 2 14 == 0#14
  | _ => f.arg == 0#16

/-- A well-formed command word: one that is not illegal in the sense of R87. -/
def CW32.wellFormed (f : CW32) : Bool := f.opcodeAssigned && f.reservedZero && f.operandSuits

end Sys2Proof
end

