-- ==== Sys2Proof/Decode.lean ====
section
/-!
DEFINITION. Decoding a command word (`30_encoding.md` R84, R85, R88), the encoder written from R86 and R94, and
the opcode map of R86 as data. Decoding is total on 32-bit words and rejects a word under a named reason.
-/

namespace Sys2Proof

/-- Why a word is illegal (R87). The hardware answers all of them alike (R140); the names are the model's (log
entry 13). -/
inductive Illegal where
  /-- `RSV ≠ 0`, looked at before the opcode (R88). -/
  | reservedField
  /-- `OP` is 0 or 7 to 15. -/
  | reservedOpcode
  /-- `ARG ≠ 0` on a command that has no operand. -/
  | operandNotZero
  /-- `SETCG` with `ARG[15:2] ≠ 0`. -/
  | selectorTooWide
  deriving DecidableEq, Repr

/-- The three fields of a word (R84). -/
def fieldsOf (w : Word) : CW32 :=
  { op := w.extractLsb' 28 4, rsv := w.extractLsb' 16 12, arg := w.extractLsb' 0 16 }

/-- The command `i`, which has no operand, unless the operand field is not 0 (R87, R88). -/
def withoutOperand (arg : BitVec 16) (i : Instr) : Except Illegal Instr :=
  if arg = 0#16 then .ok i else .error .operandNotZero

/-- R88: `decode(w)`. -/
def decode (w : Word) : Except Illegal Instr :=
  let f := fieldsOf w
  if f.rsv ≠ 0#12 then .error .reservedField
  else
    match f.op.toNat with
    | 1 => withoutOperand f.arg .rdraw
    | 2 => .ok (.rdavg f.arg)
    | 3 => if f.arg.extractLsb' 2 14 = 0#14 then .ok (.setcg (f.arg.extractLsb' 0 2)) else .error .selectorTooWide
    | 4 => withoutOperand f.arg .getcg
    | 5 => withoutOperand f.arg .pwrdn
    | 6 => withoutOperand f.arg .pwrup
    | _ => .error .reservedOpcode

/-- A word from its fields (R84). -/
def wordOf (f : CW32) : Word := f.op ++ f.rsv ++ f.arg

/-- The operand field of a command (R85). -/
def Instr.arg : Instr → BitVec 16
  | .rdraw => 0#16
  | .rdavg count => count
  | .setcg sel => sel.zeroExtend 16
  | .getcg => 0#16
  | .pwrdn => 0#16
  | .pwrup => 0#16

/-- The opcode of a command (R86). -/
def Instr.op : Instr → BitVec 4
  | .rdraw => 0x1#4
  | .rdavg _ => 0x2#4
  | .setcg _ => 0x3#4
  | .getcg => 0x4#4
  | .pwrdn => 0x5#4
  | .pwrup => 0x6#4

/-- The word of a command (R84, R94: the `match` value of its row OR-ed with the operand in `ARG`). -/
def encode (i : Instr) : Word := wordOf { op := i.op, rsv := 0#12, arg := i.arg }

/-- One row of the opcode map (R86): a word `w` is the command exactly when `w AND mask = match`. -/
structure OpcodeRow where
  mnemonic : String
  matched  : BitVec 32
  mask     : BitVec 32
  deriving DecidableEq, Repr

/-- The opcode map (R86), as `opcode_table.json` has it. -/
def opcodeTable : List OpcodeRow :=
  [ ⟨"RDRAW", 0x10000000#32, 0xFFFFFFFF#32⟩,
    ⟨"RDAVG", 0x20000000#32, 0xFFFF0000#32⟩,
    ⟨"SETCG", 0x30000000#32, 0xFFFFFFFC#32⟩,
    ⟨"GETCG", 0x40000000#32, 0xFFFFFFFF#32⟩,
    ⟨"PWRDN", 0x50000000#32, 0xFFFFFFFF#32⟩,
    ⟨"PWRUP", 0x60000000#32, 0xFFFFFFFF#32⟩ ]

/-- The word is of this row (R86). -/
def OpcodeRow.covers (r : OpcodeRow) (w : Word) : Bool := w &&& r.mask == r.matched

/-- The row of a command (R86), by its place in the table. -/
def Instr.row : Instr → OpcodeRow
  | .rdraw => ⟨"RDRAW", 0x10000000#32, 0xFFFFFFFF#32⟩
  | .rdavg _ => ⟨"RDAVG", 0x20000000#32, 0xFFFF0000#32⟩
  | .setcg _ => ⟨"SETCG", 0x30000000#32, 0xFFFFFFFC#32⟩
  | .getcg => ⟨"GETCG", 0x40000000#32, 0xFFFFFFFF#32⟩
  | .pwrdn => ⟨"PWRDN", 0x50000000#32, 0xFFFFFFFF#32⟩
  | .pwrup => ⟨"PWRUP", 0x60000000#32, 0xFFFFFFFF#32⟩

/-- A 32-bit word from the `nbits` bits of a table row, every higher bit 0. -/
def tableWord (nbits w : Nat) : Word := BitVec.ofNat 32 (w % 2 ^ nbits)

/-- The command the decoder reads from the bits `w` of an opcode-table row of `nbits` bits. -/
def decodeTableWord (nbits w : Nat) : Option Instr :=
  match decode (tableWord nbits w) with
  | .ok i => some i
  | .error _ => none

end Sys2Proof
end

