-- ==== Sys2Proof/Machine/Sequencer.lean ====
section
/-!
DEFINITION. The step function's frame (`40_sequencer.md` R96, R98; priority `60_exceptions.md` R146): reset first, then
the rule of the sequencer state; in `IDLE`, decode and dispatch. What an accepted command does is an argument, so that
this file stands before the dispatch.
-/

namespace Sys2Proof.Machine

/-- State `IDLE` (R98) with the inputs `p`: no command, an illegal word (R140), or the decoded command's own rule. -/
def idleRule (run : Instr → State → Host.Outcome State Fault Refusal) (p : PortInputs) (s : State) :
    Host.Outcome State Fault Refusal :=
  if p.cmd_valid_i then
    match decode p.cmd_word_i with
    | .ok i => run i s
    | .error _ => .next (failWith .illegalCommand s)
  else .next s

/-- State `DONE` (R96): the rule `AVGMODE` selects. -/
def doneRule (s : State) : State := if s.avgMode then doneAverageRule s else doneRawRule s

/-- The rule of the sequencer state (R96), applied to the state of a cycle that has begun. -/
def stateRule (run : Instr → State → Host.Outcome State Fault Refusal) (p : PortInputs) (s : State) :
    Host.Outcome State Fault Refusal :=
  match s.st with
  | .idle => idleRule run p s
  | .waitSlot => .next (waitSlotRule p s)
  | .waitRdy => .next (waitRdyRule p s)
  | .bitHi => .next (bitHiRule p s)
  | .bitLo => .next (bitLoRule s)
  | .pulseHi => .next (pulseHiRule s)
  | .pulseLo => .next (pulseLoRule s)
  | .done => .next (doneRule s)
  | .div => .next (divRule s)
  | .pdLo => .next (pdLoRule s)

/-- One cycle (R96). -/
def oneCycle (run : Instr → State → Host.Outcome State Fault Refusal) (s : State) :
    Host.Outcome State Fault Refusal :=
  if (portNow s).rst_i then .next (resetCycle s)
  else stateRule run (portNow s) (beginCycle s)

end Sys2Proof.Machine
end

