-- ==== Sys2Proof/Machine/Step.lean ====
section
/-! DEFINITION. The step of the block, one clock cycle (`40_sequencer.md` R96), and the placing of a command word where
the next step reads it. -/

namespace Sys2Proof.Machine

/-- `S_(n+1) = step(S_n, I_n)` (R96), with `I_n` taken from the state. -/
def step (s : State) : Host.Outcome State Fault Refusal := oneCycle exec s

/-- The state in which the next step accepts the word of the `nbits` bits `w` (log entry 7). -/
def State.withFetchWord (s : State) (nbits w : Nat) : State := offerCommand (tableWord nbits w) s

end Sys2Proof.Machine
end

