-- ==== Sys2Proof/Machine/Run.lean ====
section
/-!
DEFINITION. Runs of the block under a given sequence of inputs, with the model-only `FAULT` of `10_state.md` R32 held
until a reset, and the event view of a run (`40_sequencer.md` R102).
-/

namespace Sys2Proof.Machine

/-- One cycle with the inputs `p`. A machine that has stopped is in `FAULT`: it stays there until a cycle with
`rst_i = 1`, after which the state is the reset state (R32, R101, R156). A stopped machine holds no state, so the model's own
fields start again there, `cycle` at 0 and `inputs` empty, unlike in `resetCycle`: the model's choice (log entry 4). -/
def cycleWith (p : PortInputs) : Host.Outcome State Fault Refusal → Host.Outcome State Fault Refusal
  | .next s => step (drive p s)
  | .fault r => if p.rst_i then .next State.reset else .fault r
  | .refused r => if p.rst_i then .next State.reset else .refused r

/-- The run under a list of inputs, one entry a cycle. Only a run that ends in `.next` is final (R32). -/
def runWith : List PortInputs → Host.Outcome State Fault Refusal → Host.Outcome State Fault Refusal
  | [], o => o
  | p :: ps, o => runWith ps (cycleWith p o)

/-- `k` cycles of a state, stopping at the first fault or refusal, with the inputs the state lists or leaves free. -/
def runFor : Nat → State → Host.Outcome State Fault Refusal
  | 0, s => .next s
  | k + 1, s =>
    match step s with
    | .next s' => runFor k s'
    | .fault r => .fault r
    | .refused r => .refused r

/-- The events of R102. `accept none` is the acceptance of an illegal word. -/
inductive Event where
  | accept (command : Option Instr)
  | slot
  | ready
  | sample (bit : Bool)
  | rise
  | fall
  | respond (status : BitVec 3) (data : BitVec 32)
  deriving DecidableEq, Repr

/-- The acceptance of a cycle, if it has one (R26). -/
def acceptEvents (s : State) : List Event :=
  if s.st = .idle && (portNow s).cmd_valid_i then
    match decode (portNow s).cmd_word_i with
    | .ok i => [.accept (some i)]
    | .error _ => [.accept none]
  else []

/-- What the sequencer sees on its two inputs in a cycle (R102): `Slot`, `Ready`, `Sample(b)`. -/
def inputEvents (s : State) : List Event :=
  match s.st with
  | .waitSlot => if (portNow s).slot_i then [.slot] else []
  | .waitRdy => if (portNow s).dout_i then [] else [.ready]
  | .bitHi => if s.holdCnt = 0#_ then [.sample (portNow s).dout_i] else []
  | _ => []

/-- The edge of the clock line between two cycles. -/
def edgeEvents (s s' : State) : List Event :=
  match s.sck, s'.sck with
  | false, true => [.rise]
  | true, false => [.fall]
  | _, _ => []

/-- The response that the next cycle shows (R99). -/
def respondEvents (s' : State) : List Event := if s'.rspv then [.respond s'.rstat s'.rdata] else []

/-- The events of one cycle without reset, from its state and the next, in the order R102 lists them (log entry 12). -/
def eventsOf (s s' : State) : List Event :=
  acceptEvents s ++ inputEvents s ++ edgeEvents s s' ++ respondEvents s'

/-- The events of `k` cycles, up to the first that stops. -/
def traceFor : Nat → State → List Event
  | 0, _ => []
  | k + 1, s =>
    match step s with
    | .next s' => eventsOf s s' ++ traceFor k s'
    | .fault _ => acceptEvents s
    | .refused _ => acceptEvents s

/-- One data pulse with its bit, as R102 lists it. -/
def dataPulse (bit : Bool) : List Event := [.rise, .sample bit, .fall]

/-- The data pulses of a word, bit 23 first (R57, R102). -/
def dataPulses (w : BitVec 24) : List Event := (List.range 24).flatMap fun k => dataPulse (w.getLsbD (23 - k))

/-- The `n` selector pulses after the data pulses (R102). -/
def selectorPulses : Nat → List Event
  | 0 => []
  | n + 1 => [.rise, .fall] ++ selectorPulses n

/-- `RAW` (R102): one raw read of the word `w` with selector `sel`. -/
def rawEvents (w : BitVec 24) (sel : BitVec 2) : List Event :=
  [.ready] ++ dataPulses w ++ selectorPulses (pulses sel)

end Sys2Proof.Machine
end

