-- ==== Sys2Proof/Machine/Device.lean ====
section
/-!
DEFINITION. The device at the other end of the link, as far as the spec lets a model assume it (`20_memory.md` section 5,
`10_state.md` R51), and the closed system of block and device. It is the environment, not the block: no definition of the
block uses this file. What the device may do at will is a draw, one a cycle.
-/

namespace Sys2Proof.Machine

/-- Where the device is (R51 b, c, d). -/
inductive AdcPhase where
  /-- A conversion is in progress and no frame: the data line is high (R73). -/
  | converting
  /-- The result `w` is available and no frame is in progress: the data line is low (R73). -/
  | ready (w : BitVec 24)
  /-- The device has seen `edges` rising edges since it showed the result `w` ready (R51 b, R74, R75). -/
  | frame (w : BitVec 24) (edges : Nat)
  /-- Low-power mode (R79). -/
  | poweredDown
  /-- The undefined clock-phase state (R81) and the state after a 24-pulse frame (R75, `93` U2): the line is free. -/
  | lost
  deriving DecidableEq, Repr

/-- The hidden state of the device (R51), with its two delays in cycles of the block's clock, which never change. -/
structure Adc where
  /-- `T_SETTLE_MIN` (R7, R74), rounded up to whole cycles (`Config.settleCyclesAt`). -/
  settleCycles : Nat
  /-- `T_PD_MIN` (R9, R79), rounded down to whole cycles (`Config.pdCyclesAt`). -/
  pdCycles : Nat
  phase : AdcPhase
  /-- The channel and gain of the conversion in progress, or of the result that is available. -/
  mode : BitVec 2
  /-- The level of the clock line in the last cycle the device saw. -/
  sckWas : Bool
  /-- For how many cycles, that one included, the clock line has been high. -/
  highFor : Nat
  deriving DecidableEq, Repr

/-- What the device draws freely in one cycle. -/
structure AdcDraw where
  /-- A conversion ends in this cycle with this value (R77, R78). -/
  finished : Option (BitVec 24)
  /-- The level of the data line where no rule gives it (R74, R81). -/
  level : Bool
  deriving DecidableEq, Repr

/-- The device's pending mode (R51 a, R75): the pulses after the 24th select the mode of the next conversion; with none
the device stays in its prior mode. It takes effect when the frame is complete (`frameEnds`). -/
def pendingMode (a : Adc) : BitVec 2 :=
  match a.phase with
  | .frame _ k => if 25 ≤ k ∧ k ≤ 27 then BitVec.ofNat 2 (k - 24) else a.mode
  | _ => a.mode

/-- A rising edge (R74, R75). An edge while no result is available and no frame is in progress (a `PWRDN` after a complete
frame makes one), and a 28th edge, are in no rule: the model's choice is `lost` (log entry 9). -/
def risingEdge : AdcPhase → AdcPhase
  | .ready w => .frame w 1
  | .frame w k => if k < 27 then .frame w (k + 1) else .lost
  | .converting => .lost
  | .poweredDown => .lost
  | .lost => .lost

/-- The phase after a cycle in which the clock line is at `sck`, and has been high for `h` cycles: power-down after more
than `T_PD_MIN` high and wake-up when low (R79). -/
def phaseAfter (pdCycles : Nat) (sck sckWas : Bool) (h : Nat) (p : AdcPhase) : AdcPhase :=
  if sck then
    if pdCycles < h then .poweredDown
    else if sckWas then p
    else risingEdge p
  else if p = .poweredDown then .converting
  else p

/-- The device after it has seen the level of the clock line in this cycle. On waking its mode is its power-on default,
channel A gain 128 (R79, R168; log entry 9). -/
def adcSees (sck : Bool) (a : Adc) : Adc :=
  let h := if sck then a.highFor + 1 else 0
  { a with
    phase := phaseAfter a.pdCycles sck a.sckWas h a.phase,
    mode := if !sck && a.phase = .poweredDown then 1#2 else a.mode,
    sckWas := sck,
    highFor := h }

/-- The level of the data line in a cycle, once the device has seen the clock line (R73, R74, R76, R79, R81). In a frame
the data bit stands from `T_SETTLE_MIN` after the rising edge to the end of the high phase; elsewhere in the frame, the
selector pulses included, the line is free (`93` U7, `91` N17). That it is high from the end of a complete frame on is R76's,
and high in low-power mode R79's general knowledge (log entry 9). -/
def adcLine (d : AdcDraw) (a : Adc) : Bool :=
  match a.phase with
  | .converting => true
  | .ready _ => false
  | .frame w k =>
    if k ≤ 24 && a.sckWas && decide (a.settleCycles ≤ a.highFor) then w.getLsbD (24 - k) else d.level
  | .poweredDown => true
  | .lost => d.level

/-- The end of a cycle: a conversion in progress may end (R77, R78). None is in progress in a frame (R15, R73). -/
def adcConverts (d : AdcDraw) (a : Adc) : Adc :=
  match d.finished, a.phase with
  | some v, .converting => { a with phase := .ready v }
  | _, _ => a

/-- Block and device. -/
structure ClosedState where
  block : State
  adc   : Adc
  deriving DecidableEq, Repr

/-- The block's cycle from `s` to `s'` leaves the device in a state no rule describes: a frame cut by reset (R81, R165),
a frame of 24 pulses (R75, R113, `93` U2), a high level of a power-down that a `PWRUP` ends before it has powered the device
down (R167). A reset in `IDLE` or a second `PWRDN` that ends such a level early is in no rule; the model's choice is to treat
it like the `PWRUP` of R167 (log entry 9). -/
def spoils (s s' : State) (a : Adc) : Bool :=
  ((portNow s).rst_i && (s.st = .bitHi || s.st = .bitLo || s.st = .pulseHi || s.st = .pulseLo))
    || (s.st = .bitLo && s'.st = .done)
    || (s.st = .idle && s.sck && !s'.sck && a.phase ≠ .poweredDown)

/-- The block's cycle from `s` to `s'` is the last of a frame's last selector pulse: the frame of 25 to 27 pulses is complete
(R60, R76). -/
def frameEnds (s s' : State) : Bool := s.st = .pulseLo && s'.st = .done

/-- When the block's frame is complete, a device that has counted the 25 to 27 pulses of a whole frame converts next in the
mode they selected (R75, R163). A device that is not in such a frame is not put right by it: the lost device stays lost (R81,
`93` U2, U3). -/
def adcStarts (a : Adc) : Adc :=
  match a.phase with
  | .frame _ k =>
    if 25 ≤ k ∧ k ≤ 27 then { a with phase := .converting, mode := pendingMode a } else { a with phase := .lost }
  | _ => a

/-- The device at the end of the block's cycle from `s` to `s'`. -/
def adcAfter (d : AdcDraw) (s s' : State) (a : Adc) : Adc :=
  if spoils s s' a then { a with phase := .lost }
  else if frameEnds s s' then adcStarts a
  else adcConverts d a

/-- One cycle of the closed system (R82: the device answers the clock line of this cycle in this cycle). The host's inputs
are those of `p`; the level of `dout_i` is the device's. -/
def closedStep (p : PortInputs) (d : AdcDraw) (c : ClosedState) : Host.Outcome ClosedState Fault Refusal :=
  let a := adcSees c.block.sck c.adc
  let s := drive { p with dout_i := adcLine d a } c.block
  match step s with
  | .next s' => .next { block := s', adc := adcAfter d s s' a }
  | .fault r => .fault r
  | .refused r => .refused r

/-- The closed system under a list of host inputs and draws, one pair a cycle. A run that reaches `FAULT` stays there, cycles
with reset included: R32 lets reset end `FAULT` for the block, but the clock line, and so the device, is open meanwhile (`93`
U1). Not to go on is the model's choice (log entry 4). -/
def closedRun : List (PortInputs × AdcDraw) → ClosedState → Host.Outcome ClosedState Fault Refusal
  | [], c => .next c
  | (p, d) :: rest, c =>
    match closedStep p d c with
    | .next c' => closedRun rest c'
    | .fault r => .fault r
    | .refused r => .refused r

/-- The external slot source (R14, R25): 1 when the wall clock modulo the period is 0. -/
def slotLevel (wallClock : Nat) : Bool := wallClock % Config.slotPeriod == 0

end Sys2Proof.Machine
end

