-- ==== Sys2Proof/Safety.lean ====
section
/-!
DEFINITION. What the claims call safe: the invariant of `10_state.md` R54, the transition table of `40_sequencer.md`
R101 as data, final outcomes, and the fairness premises of `60_exceptions.md` R144.
-/

namespace Sys2Proof.Machine

/-- A run that ends so is final (R32): it has not entered `FAULT`. -/
def isFinal : Host.Outcome State Fault Refusal → Bool
  | .next _ => true
  | .fault _ => false
  | .refused _ => false

/-- The states of a read command but for `DIV` (R54 v). -/
def readStates : List SeqState := [.waitSlot, .waitRdy, .bitHi, .bitLo, .pulseHi, .pulseLo, .done]

/-- `ACC` is within what the sum of `taken` samples can be (R41, R54 v, R122). -/
def accWithin (acc : BitVec 40) (taken : Nat) : Prop :=
  -(8388608 * (taken : Int)) ≤ acc.toInt ∧ acc.toInt ≤ 8388607 * (taken : Int)

/-- The invariant of one state (R54, with R34, R38 and R92's ranges). Of R54 v and vi it has the ranges; that `ACC` is the sum
of the samples is `SumInv`, since past samples are not state (log entry 15). -/
structure Inv (s : State) : Prop where
  /-- R54 i, ii: the clock line is high exactly in a high phase, and in `IDLE` while PoweredDown. -/
  clockLine : s.sck = true ↔ (s.st = .bitHi ∨ s.st = .pulseHi ∨ (s.st = .idle ∧ s.pwr = true))
  /-- R54 iii, R39. -/
  holdCnt : s.holdCnt.toNat ≤ Config.hold - 1
  /-- R54 iv, R37. -/
  bitCnt : s.bitCnt.toNat ≤ 23
  /-- R38. -/
  pulseCnt : s.pulseCnt.toNat ≤ 2
  /-- R54 v. -/
  averaging : s.st ∈ readStates → s.avgMode = true →
    1 ≤ s.remain.toNat ∧ s.remain.toNat ≤ s.count.toNat ∧ accWithin s.acc (s.count.toNat - s.remain.toNat)
  /-- R54 vi, R42. -/
  dividing : s.st = .div → s.remain = 0#16 ∧ 1 ≤ s.count.toNat ∧ accWithin s.acc s.count.toNat
  /-- R54 vii, R40. -/
  sample : (s.sample.truncate 24).signExtend 32 = s.sample
  /-- No read is in progress while PoweredDown (R136, R101). -/
  readsInNormal : s.st ∈ readStates ∨ s.st = .div → s.pwr = false
  /-- R92: codes 3 to 7 are never produced. -/
  status : s.rstat.toNat ≤ 2

/-- The samples the average in progress has added so far, oldest first, after the step from a state in which they were `taken`:
none at acceptance (R117) and after reset, one more at each `DONE` of an average (R119). A history for R54 v and vi, which no
rule of the block reads. -/
def takenAfter (s : State) (taken : List Int) : List Int :=
  if (portNow s).rst_i then []
  else if s.st = .idle then []
  else if s.st = .done && s.avgMode then taken ++ [s.sample.toInt]
  else taken

/-- R54 v and vi whole: in a state of an average, with the samples `taken` so far, `ACC` is their sum and `COUNT − REMAIN`
their number; in `DIV` all `COUNT` of them. -/
structure SumInv (taken : List Int) (s : State) : Prop where
  inv : Inv s
  /-- R40, R111. -/
  range : ∀ v ∈ taken, -8388608 ≤ v ∧ v ≤ 8388607
  /-- R54 v. -/
  averaging : s.st ∈ readStates → s.avgMode = true →
    taken.length = s.count.toNat - s.remain.toNat ∧ s.acc.toInt = taken.sum
  /-- R54 vi. -/
  dividing : s.st = .div → taken.length = s.count.toNat ∧ s.acc.toInt = taken.sum

/-- Nothing accepted, or a command that stays in `IDLE` (R98, R101 first row). -/
def staysIdle (p : PortInputs) : Bool :=
  if p.cmd_valid_i then
    match decode p.cmd_word_i with
    | .ok .rdraw => false
    | .ok (.rdavg c) => c == 0#16
    | .ok .pwrdn => false
    | _ => true
  else true

/-- The word accepted is this command. -/
def accepts (p : PortInputs) (i : Instr) : Bool :=
  p.cmd_valid_i && (match decode p.cmd_word_i with | .ok j => j == i | .error _ => false)

/-- The word accepted is an `RDAVG` of at least one sample. -/
def acceptsAverage (p : PortInputs) : Bool :=
  p.cmd_valid_i && (match decode p.cmd_word_i with | .ok (.rdavg c) => c != 0#16 | _ => false)

/-- One row of the next-state table. -/
structure TransitionRow where
  source    : SeqState
  condition : PortInputs → State → Bool
  target    : SeqState

/-- The rows of R101 that leave `IDLE` or wait for an input. -/
def waitingRows : List TransitionRow :=
  [ ⟨.idle, fun p _ => staysIdle p, .idle⟩,
    ⟨.idle, fun p s => accepts p .rdraw && !s.pwr, .waitRdy⟩,
    ⟨.idle, fun p s => acceptsAverage p && !s.pwr, .waitSlot⟩,
    ⟨.idle, fun p _ => accepts p .pwrdn, .pdLo⟩,
    ⟨.waitSlot, fun p _ => !p.slot_i, .waitSlot⟩,
    ⟨.waitSlot, fun p _ => p.slot_i, .waitRdy⟩,
    ⟨.waitRdy, fun p _ => p.dout_i, .waitRdy⟩,
    ⟨.waitRdy, fun p _ => !p.dout_i, .bitHi⟩ ]

/-- The rows of R101 inside a frame. -/
def frameRows : List TransitionRow :=
  [ ⟨.bitHi, fun _ s => s.holdCnt != 0#_, .bitHi⟩,
    ⟨.bitHi, fun _ s => s.holdCnt == 0#_, .bitLo⟩,
    ⟨.bitLo, fun _ s => s.holdCnt != 0#_, .bitLo⟩,
    ⟨.bitLo, fun _ s => s.holdCnt == 0#_ && s.bitCnt != 23#5, .bitHi⟩,
    ⟨.bitLo, fun _ s => s.holdCnt == 0#_ && s.bitCnt == 23#5 && decide (1 ≤ pulses s.sel), .pulseHi⟩,
    ⟨.bitLo, fun _ s => s.holdCnt == 0#_ && s.bitCnt == 23#5 && decide (pulses s.sel = 0), .done⟩,
    ⟨.pulseHi, fun _ s => s.holdCnt != 0#_, .pulseHi⟩,
    ⟨.pulseHi, fun _ s => s.holdCnt == 0#_, .pulseLo⟩,
    ⟨.pulseLo, fun _ s => s.holdCnt != 0#_, .pulseLo⟩,
    ⟨.pulseLo, fun _ s => s.holdCnt == 0#_ && s.pulseCnt != 0#2, .pulseHi⟩,
    ⟨.pulseLo, fun _ s => s.holdCnt == 0#_ && s.pulseCnt == 0#2, .done⟩ ]

/-- The rows of R101 after a frame, and of `PWRDN`. -/
def closingRows : List TransitionRow :=
  [ ⟨.done, fun _ s => !s.avgMode, .idle⟩,
    ⟨.done, fun _ s => s.avgMode && s.remain != 1#16, .waitSlot⟩,
    ⟨.done, fun _ s => s.avgMode && s.remain == 1#16, .div⟩,
    ⟨.div, fun _ _ => true, .idle⟩,
    ⟨.pdLo, fun _ s => s.holdCnt != 0#_, .pdLo⟩,
    ⟨.pdLo, fun _ s => s.holdCnt == 0#_, .idle⟩ ]

/-- The complete next-state table (R101). -/
def transitionTable : List TransitionRow := waitingRows ++ frameRows ++ closingRows

/-- No reset in the next `n` cycles. -/
def NoReset (s : State) (n : Nat) : Prop := ∀ k < n, (portAt s k).rst_i = false

/-- The data line is first low, from cycle `a` on, in cycle `r` (R114). -/
def FirstReady (s : State) (a r : Nat) : Prop :=
  a ≤ r ∧ (∀ k, a ≤ k → k < r → (portAt s k).dout_i = true) ∧ (portAt s r).dout_i = false

/-- The slot input is first high, from cycle `a` on, in cycle `n` (R127). -/
def FirstSlot (s : State) (a n : Nat) : Prop :=
  a ≤ n ∧ (∀ k, a ≤ k → k < n → (portAt s k).slot_i = false) ∧ (portAt s n).slot_i = true

/-- The data line carries the word `w` in a frame whose data-ready is seen in cycle `r`: in the cycles the block samples
(R114). Every other cycle is free. -/
def CarriesWord (s : State) (r : Nat) (w : BitVec 24) : Prop :=
  ∀ k < 24, (portAt s (r + (2 * k + 1) * Config.hold)).dout_i = w.getLsbD (23 - k)

/-- The number of cycles a frame occupies (R114, R174). -/
def frameCycles (sel : BitVec 2) : Nat := 2 * (24 + pulses sel) * Config.hold

/-- The fairness premise on the device (R15, R78, R144; log entry 14): from cycle `a` on, data-ready comes within
`T_CONV`. -/
def DataReadyFair (s : State) (a : Nat) : Prop :=
  ∃ r, FirstReady s a r ∧ r ≤ a + Config.tConvCycles

end Sys2Proof.Machine
end

