-- ==== Sys2Proof/Certificates/Slice0/Obligations.lean ====
section
/-!
DEFINITION. The statements about the block, for the provers. Each docstring names the rule it formalises. In every
statement `beginCycle s` is R96's `S with RSPV <- 0` in the next cycle's environment; the fields `inputs` and `cycle` are the
model's own (log entries 1 and 2) and no rule speaks of them.
-/

open Sys2Proof Sys2Proof.Machine

/-! ### Encoding -/

/-- R94's example words decode to the commands R94 gives them (R88), and the all-zero word is illegal (R87). -/
def Obligations.ExampleWordsDecode : Prop :=
  decode 0x10000000#32 = .ok .rdraw ∧
  decode 0x2000000A#32 = .ok (.rdavg 10#16) ∧
  decode 0x30000002#32 = .ok (.setcg 2#2) ∧
  decode 0x40000000#32 = .ok .getcg ∧
  decode 0x50000000#32 = .ok .pwrdn ∧
  decode 0x60000000#32 = .ok .pwrup ∧
  (∃ e, decode 0x00000000#32 = .error e)

/-- Decoding the word of any command, with any operand, gives that command (R85, R86, R88). -/
def Obligations.DecodeInvertsEncode : Prop :=
  ∀ i : Instr, decode (encode i) = .ok i

/-- A word that decodes to a command is the word of that command: no two words mean the same (R84, R86, R88). -/
def Obligations.EncodeInvertsDecode : Prop :=
  ∀ (w : Word) (i : Instr), decode w = .ok i → encode i = w

/-- R86: a word is the command exactly when `(w AND mask) = match`, with the operand that `ARG` holds (R85), and the six
rows are pairwise disjoint. -/
def Obligations.DecodeFollowsOpcodeMap : Prop :=
  (∀ w : Word,
    (decode w = .ok .rdraw ↔ w &&& 0xFFFFFFFF#32 = 0x10000000#32) ∧
    (∀ c, decode w = .ok (.rdavg c) ↔ w &&& 0xFFFF0000#32 = 0x20000000#32 ∧ c = w.extractLsb' 0 16) ∧
    (∀ v, decode w = .ok (.setcg v) ↔ w &&& 0xFFFFFFFC#32 = 0x30000000#32 ∧ v = w.extractLsb' 0 2) ∧
    (decode w = .ok .getcg ↔ w &&& 0xFFFFFFFF#32 = 0x40000000#32) ∧
    (decode w = .ok .pwrdn ↔ w &&& 0xFFFFFFFF#32 = 0x50000000#32) ∧
    (decode w = .ok .pwrup ↔ w &&& 0xFFFFFFFF#32 = 0x60000000#32)) ∧
  (∀ (w : Word) (r₁ r₂ : OpcodeRow), r₁ ∈ opcodeTable → r₂ ∈ opcodeTable →
    r₁.covers w = true → r₂.covers w = true → r₁ = r₂)

/-- R87: the illegal words are those with `OP` 0 or 7 to 15, `RSV ≠ 0`, an operand where there is none, or `SETCG` with
`ARG[15:2] ≠ 0`; `RDAVG` with `ARG = 0` is not one of them, it is answered `PRECONDITION_VIOLATION`. An illegal word that is
accepted gets `ILLEGAL_COMMAND` with datum 0 and changes no other element (R140). -/
def Obligations.IllegalWordsAreTheReservedOnes : Prop :=
  (∀ w : Word, (∃ e, decode w = .error e) ↔
    (w.extractLsb' 28 4 = 0#4 ∨ 7 ≤ (w.extractLsb' 28 4).toNat ∨ w.extractLsb' 16 12 ≠ 0#12 ∨
      (w.extractLsb' 28 4 ∈ [1#4, 4#4, 5#4, 6#4] ∧ w.extractLsb' 0 16 ≠ 0#16) ∨
      (w.extractLsb' 28 4 = 3#4 ∧ w.extractLsb' 2 14 ≠ 0#14))) ∧
  decode 0x20000000#32 = .ok (.rdavg 0#16) ∧
  (∀ s : State, exec (.rdavg 0#16) s = .next { s with rspv := true, rstat := 1#3, rdata := 0#32 }) ∧
  (∀ (s : State) (e : Illegal), (portNow s).rst_i = false → s.st = .idle → (portNow s).cmd_valid_i = true →
    decode (portNow s).cmd_word_i = .error e →
    step s = .next { beginCycle s with rspv := true, rstat := 2#3, rdata := 0#32 })

/-- R90: the pulse count of a selector is its numeric value; by R89's table the counts are 0, 1, 2, 3, and those of the
three active variants are exactly 1, 2, 3 and differ pairwise. -/
def Obligations.PulseCountIsTheSelectorValue : Prop :=
  (∀ v : BitVec 2, pulses v = v.toNat) ∧
  pulses selNone = 0 ∧ pulses selA128 = 1 ∧ pulses selB32 = 2 ∧ pulses selA64 = 3 ∧
  (∀ u v : BitVec 2, u ≠ selNone → v ≠ selNone → pulses u = pulses v → u = v)

/-! ### The step, the ports, reset -/

/-- A step of an idle block that is not being reset, with a command word offered, runs the command the word decodes to, in
the cycle that has begun (R26, R96, R98). -/
def Obligations.StepRunsTheDecodedCommand : Prop :=
  ∀ (s : State) (i : Instr), (portNow s).rst_i = false → s.st = .idle → (portNow s).cmd_valid_i = true →
    decode (portNow s).cmd_word_i = .ok i →
    step s = exec i { s with rspv := false, inputs := s.inputs.tail, cycle := s.cycle + 1 }

/-- In `IDLE` without a command nothing changes but `RSPV <- 0` (R98). -/
def Obligations.IdleWithoutCommandChangesNothing : Prop :=
  ∀ s : State, (portNow s).rst_i = false → s.st = .idle → (portNow s).cmd_valid_i = false →
    step s = .next { s with rspv := false, inputs := s.inputs.tail, cycle := s.cycle + 1 }

/-- R146: reset first; then the state's own rule, whatever is on the command port; in `IDLE`, illegal encodings before
any operand check; then `RDAVG 0` before the power state; only then the precondition `PWR = 0` of the reads. -/
def Obligations.PriorityOfConditions : Prop :=
  (∀ s : State, (portNow s).rst_i = true → step s = .next (resetCycle s)) ∧
  (∀ (s : State) (valid : Bool) (word : BitVec 32), s.st ≠ .idle →
    step (drive { portNow s with cmd_valid_i := valid, cmd_word_i := word } s) = step s) ∧
  (∀ s : State, (portNow s).rst_i = false → s.st = .idle → (portNow s).cmd_valid_i = true →
    (portNow s).cmd_word_i.extractLsb' 28 4 = 2#4 → (portNow s).cmd_word_i.extractLsb' 16 12 ≠ 0#12 →
    (portNow s).cmd_word_i.extractLsb' 0 16 = 0#16 →
    step s = .next { beginCycle s with rspv := true, rstat := 2#3, rdata := 0#32 }) ∧
  (∀ s : State, (portNow s).rst_i = false → s.st = .idle → (portNow s).cmd_valid_i = true →
    (portNow s).cmd_word_i = 0x20000000#32 →
    step s = .next { beginCycle s with rspv := true, rstat := 1#3, rdata := 0#32 }) ∧
  (∀ (s : State) (c : BitVec 16), c ≠ 0#16 → s.pwr = true →
    exec .rdraw s = .fault .readWhilePoweredDown ∧ exec (.rdavg c) s = .fault .readWhilePoweredDown)

/-- R23: outside `WAIT_RDY` and the last cycle of a data pulse's high phase the level of `dout_i` has no effect. -/
def Obligations.DataLineIsReadInTwoPlacesOnly : Prop :=
  ∀ (s : State) (level : Bool), s.st ≠ .waitRdy → ¬(s.st = .bitHi ∧ s.holdCnt = 0#_) →
    step (drive { portNow s with dout_i := level } s) = step s

/-- R25: outside `WAIT_SLOT` the level of `slot_i` has no effect. -/
def Obligations.SlotInputIsReadInWaitSlotOnly : Prop :=
  ∀ (s : State) (level : Bool), s.st ≠ .waitSlot →
    step (drive { portNow s with slot_i := level } s) = step s

/-- R156: a cycle with `rst_i = 1` leads from every state to `RESET_STATE`, whatever the other inputs are. -/
def Obligations.ResetLeadsToResetState : Prop :=
  ∀ s : State, (portNow s).rst_i = true →
    ∃ t, step s = .next t ∧
      t.st = .idle ∧ t.sck = false ∧ t.pwr = false ∧ t.sel = 1#2 ∧
      t.rspv = false ∧ t.rstat = 0#3 ∧ t.rdata = 0#32 ∧
      t.shift = 0#24 ∧ t.bitCnt = 0#5 ∧ t.pulseCnt = 0#2 ∧ t.holdCnt = 0#_ ∧ t.sample = 0#32 ∧
      t.acc = 0#40 ∧ t.count = 0#16 ∧ t.remain = 0#16 ∧ t.avgMode = false

/-- R97: the outputs of a cycle are these functions of the state, and the inputs of the cycle do not affect them. -/
def Obligations.OutputsDependOnTheStateAlone : Prop :=
  ∀ (s : State) (p : PortInputs),
    (outputs s).sck_o = s.sck ∧
    ((outputs s).cmd_ready_o = true ↔ s.st = .idle) ∧
    ((outputs s).busy_o = true ↔ s.st ≠ .idle) ∧
    (outputs s).rsp_valid_o = s.rspv ∧
    (outputs s).rsp_status_o = s.rstat ∧
    (outputs s).rsp_data_o = s.rdata ∧
    outputs (drive p s) = outputs s

/-- R32, R101: a run in `FAULT` stays there, produces no state, and leaves it only by reset, for the reset state. -/
def Obligations.FaultIsLeftOnlyByReset : Prop :=
  ∀ (r : Fault) (ps : List PortInputs) (p : PortInputs), (∀ q ∈ ps, q.rst_i = false) → p.rst_i = true →
    runWith ps (.fault r) = .fault r ∧
    isFinal (runWith ps (.fault r)) = false ∧
    runWith (ps ++ [p]) (.fault r) = .next State.reset

/-! ### The commands -/

/-- R104: acceptance of `RDRAW`. -/
def Obligations.RawReadIsAccepted : Prop :=
  ∀ s : State, s.pwr = false →
    exec .rdraw s = .next { s with avgMode := false, st := .waitRdy }

/-- R117: acceptance of `RDAVG count` with `count ≥ 1`. -/
def Obligations.AveragedReadIsAccepted : Prop :=
  ∀ (s : State) (c : BitVec 16), 1 ≤ c.toNat → s.pwr = false →
    exec (.rdavg c) s = .next { s with avgMode := true, count := c, remain := c, acc := 0#40, st := .waitSlot }

/-- R116: `RDAVG 0` responds `PRECONDITION_VIOLATION`, 0, whatever `PWR` is, and changes no other element. -/
def Obligations.AverageOfZeroSamplesIsRefused : Prop :=
  ∀ s : State, exec (.rdavg 0#16) s = .next { s with rspv := true, rstat := 1#3, rdata := 0#32 }

/-- R136: a read accepted while PoweredDown has no behaviour (the model faults); `RDAVG 0` and the four control commands
are answered in either power state. -/
def Obligations.ReadWhilePoweredDownFaults : Prop :=
  ∀ (s : State) (c : BitVec 16) (v : BitVec 2), s.pwr = true →
    exec .rdraw s = .fault .readWhilePoweredDown ∧
    (c ≠ 0#16 → exec (.rdavg c) s = .fault .readWhilePoweredDown) ∧
    (∃ t, exec (.rdavg 0#16) s = .next t) ∧ (∃ t, exec (.setcg v) s = .next t) ∧
    (∃ t, exec .getcg s = .next t) ∧ (∃ t, exec .pwrdn s = .next t) ∧ (∃ t, exec .pwrup s = .next t)

/-- `SETCG sel` (R128), for all four values (R130) and in either power state. -/
def Obligations.SelectorIsSet : Prop :=
  ∀ (s : State) (v : BitVec 2),
    exec (.setcg v) s = .next { s with sel := v, rspv := true, rstat := 0#3, rdata := v.zeroExtend 32 }

/-- R129: `GETCG`, in either power state. -/
def Obligations.SelectorIsRead : Prop :=
  ∀ s : State, exec .getcg s = .next { s with rspv := true, rstat := 0#3, rdata := s.sel.zeroExtend 32 }

/-- R132's first cycle, in either power state (R135): `PWRDN` drives the line low for a settle period. -/
def Obligations.PowerDownStarts : Prop :=
  ∀ s : State, exec .pwrdn s = .next { s with sck := false, holdCnt := holdReload, st := .pdLo }

/-- `PWRUP` (R134), in either power state. -/
def Obligations.PowerUpIsImmediate : Prop :=
  ∀ s : State,
    exec .pwrup s = .next { s with sck := false, pwr := false, rspv := true, rstat := 0#3, rdata := 0#32 }

/-- R132, R135: from the acceptance of `PWRDN`, in either power state, the line is low for exactly `HOLD` cycles; in the
next it is high, `PWR` = 1 and the response is there; every element the rule does not name is as before. -/
def Obligations.PowerDownSequence : Prop :=
  ∀ s : State, s.st = .idle → (portNow s).cmd_valid_i = true → decode (portNow s).cmd_word_i = .ok .pwrdn →
    NoReset s (Config.hold + 1) →
    (∀ n, 1 ≤ n → n ≤ Config.hold →
      ∃ t, runFor n s = .next t ∧ t.st = .pdLo ∧ t.sck = false ∧ t.pwr = s.pwr ∧ t.rspv = false) ∧
    (∃ t, runFor (Config.hold + 1) s = .next t ∧ t.st = .idle ∧ t.sck = true ∧ t.pwr = true ∧
      t.rspv = true ∧ t.rstat = 0#3 ∧ t.rdata = 0#32 ∧
      t.sel = s.sel ∧ t.shift = s.shift ∧ t.bitCnt = s.bitCnt ∧ t.pulseCnt = s.pulseCnt ∧ t.sample = s.sample ∧
      t.acc = s.acc ∧ t.count = s.count ∧ t.remain = s.remain ∧ t.avgMode = s.avgMode)

/-! ### The states of the sequencer -/

/-- R118: `WAIT_SLOT`. -/
def Obligations.WaitSlotState : Prop :=
  ∀ s : State, (portNow s).rst_i = false → s.st = .waitSlot →
    ((portNow s).slot_i = true → step s = .next { beginCycle s with st := .waitRdy }) ∧
    ((portNow s).slot_i = false → step s = .next (beginCycle s))

/-- R105: `WAIT_RDY`. -/
def Obligations.WaitReadyState : Prop :=
  ∀ s : State, (portNow s).rst_i = false → s.st = .waitRdy →
    ((portNow s).dout_i = false → step s = .next { beginCycle s with
      sck := true, holdCnt := holdReload, bitCnt := 0#5, st := .bitHi }) ∧
    ((portNow s).dout_i = true → step s = .next (beginCycle s))

/-- R106: `BIT_HI`; the shifted register is stated bit by bit. -/
def Obligations.DataPulseHighState : Prop :=
  ∀ s : State, (portNow s).rst_i = false → s.st = .bitHi →
    (s.holdCnt ≠ 0#_ → step s = .next { beginCycle s with holdCnt := s.holdCnt - 1#_ }) ∧
    (s.holdCnt = 0#_ → ∃ shifted : BitVec 24,
      step s = .next { beginCycle s with
        shift := shifted, sck := false, holdCnt := holdReload, st := .bitLo } ∧
      shifted.getLsbD 0 = (portNow s).dout_i ∧
      (∀ k, k < 23 → shifted.getLsbD (k + 1) = s.shift.getLsbD k))

/-- R107, R113: `BIT_LO`. -/
def Obligations.DataPulseLowState : Prop :=
  ∀ s : State, (portNow s).rst_i = false → s.st = .bitLo →
    (s.holdCnt ≠ 0#_ → step s = .next { beginCycle s with holdCnt := s.holdCnt - 1#_ }) ∧
    (s.holdCnt = 0#_ → s.bitCnt ≠ 23#5 → step s = .next { beginCycle s with
      bitCnt := s.bitCnt + 1#5, sck := true, holdCnt := holdReload, st := .bitHi }) ∧
    (s.holdCnt = 0#_ → s.bitCnt = 23#5 → s.sel = 0#2 → step s = .next { beginCycle s with
      sample := s.shift.signExtend 32, st := .done }) ∧
    (s.holdCnt = 0#_ → s.bitCnt = 23#5 → s.sel ≠ 0#2 → step s = .next { beginCycle s with
      sample := s.shift.signExtend 32, pulseCnt := s.sel - 1#2, sck := true, holdCnt := holdReload,
      st := .pulseHi })

/-- R108 and R109: `PULSE_HI` and `PULSE_LO`. -/
def Obligations.SelectorPulseStates : Prop :=
  ∀ s : State, (portNow s).rst_i = false →
    (s.st = .pulseHi ∨ s.st = .pulseLo → s.holdCnt ≠ 0#_ →
      step s = .next { beginCycle s with holdCnt := s.holdCnt - 1#_ }) ∧
    (s.st = .pulseHi → s.holdCnt = 0#_ → step s = .next { beginCycle s with
      sck := false, holdCnt := holdReload, st := .pulseLo }) ∧
    (s.st = .pulseLo → s.holdCnt = 0#_ → s.pulseCnt ≠ 0#2 → step s = .next { beginCycle s with
      pulseCnt := s.pulseCnt - 1#2, sck := true, holdCnt := holdReload, st := .pulseHi }) ∧
    (s.st = .pulseLo → s.holdCnt = 0#_ → s.pulseCnt = 0#2 → step s = .next { beginCycle s with st := .done })

/-- R110: `DONE` with `AVGMODE` = 0. -/
def Obligations.RawReadResponds : Prop :=
  ∀ s : State, (portNow s).rst_i = false → s.st = .done → s.avgMode = false →
    step s = .next { beginCycle s with rspv := true, rstat := 0#3, rdata := s.sample, st := .idle }

/-- R119: `DONE` with `AVGMODE` = 1. -/
def Obligations.SampleIsAccumulated : Prop :=
  ∀ s : State, (portNow s).rst_i = false → s.st = .done → s.avgMode = true →
    (s.remain = 1#16 → step s = .next { beginCycle s with
      acc := s.acc + s.sample.signExtend 40, remain := s.remain - 1#16, st := .div }) ∧
    (s.remain ≠ 1#16 → step s = .next { beginCycle s with
      acc := s.acc + s.sample.signExtend 40, remain := s.remain - 1#16, st := .waitSlot })

/-- R120: `DIV`, for a divisor that is not 0, in the reference machine's one cycle (log entry 6). -/
def Obligations.AverageResponds : Prop :=
  ∀ s : State, (portNow s).rst_i = false → s.st = .div → s.count ≠ 0#16 →
    step s = .next { beginCycle s with
      rspv := true, rstat := 0#3, rdata := BitVec.ofInt 32 (s.acc.toInt.tdiv s.count.toNat), st := .idle }

/-- R133: `PD_LO`. -/
def Obligations.PowerDownLowState : Prop :=
  ∀ s : State, (portNow s).rst_i = false → s.st = .pdLo →
    (s.holdCnt ≠ 0#_ → step s = .next { beginCycle s with holdCnt := s.holdCnt - 1#_ }) ∧
    (s.holdCnt = 0#_ → step s = .next { beginCycle s with
      sck := true, pwr := true, rspv := true, rstat := 0#3, rdata := 0#32, st := .idle })

/-- R100: a phase that starts with `HOLDCNT = HOLD − 1` holds its state and its level for exactly `HOLD` cycles, and its
end-of-phase action, which changes the state, comes in the last of them. -/
def Obligations.PhaseLastsHoldCycles : Prop :=
  ∀ s : State, s.st ∈ [SeqState.bitHi, .bitLo, .pulseHi, .pulseLo, .pdLo] → s.holdCnt = holdReload →
    NoReset s Config.hold →
    (∀ n < Config.hold, ∃ t, runFor n s = .next t ∧ t.st = s.st ∧ t.sck = s.sck ∧
      t.holdCnt.toNat = Config.hold - 1 - n) ∧
    (∃ t, runFor Config.hold s = .next t ∧ t.st ≠ s.st)

/-! ### Whole-machine rules -/

/-- R101: the next-state table is complete, and each of its rows is a transition the block makes. -/
def Obligations.NextStateTableIsExact : Prop :=
  (∀ s t : State, (portNow s).rst_i = false → step s = .next t →
    ∃ row ∈ transitionTable, row.source = s.st ∧ row.condition (portNow s) s = true ∧ row.target = t.st) ∧
  (∀ (s : State) (row : TransitionRow), row ∈ transitionTable → (portNow s).rst_i = false →
    row.source = s.st → row.condition (portNow s) s = true → ∃ t, step s = .next t ∧ t.st = row.target) ∧
  (∀ s : State, (portNow s).rst_i = true → ∃ t, step s = .next t ∧ t.st = .idle)

/-- R35: only `SETCG` and reset write `SEL`. -/
def Obligations.OnlySetcgAndResetWriteTheSelector : Prop :=
  ∀ s t : State, step s = .next t → t.sel ≠ s.sel →
    ((portNow s).rst_i = true ∧ t.sel = 1#2) ∨
    (s.st = .idle ∧ (portNow s).cmd_valid_i = true ∧ decode (portNow s).cmd_word_i = .ok (.setcg t.sel))

/-- R34, R131: `PWR` becomes 1 only at the end of `PWRDN`, and 0 only by `PWRUP` and by reset. -/
def Obligations.OnlyPowerCommandsAndResetWriteThePowerState : Prop :=
  ∀ s t : State, step s = .next t →
    (s.pwr = false → t.pwr = true → s.st = .pdLo ∧ s.holdCnt = 0#_ ∧ (portNow s).rst_i = false) ∧
    (s.pwr = true → t.pwr = false → (portNow s).rst_i = true ∨
      (s.st = .idle ∧ (portNow s).cmd_valid_i = true ∧ decode (portNow s).cmd_word_i = .ok .pwrup))

/-- R99: `RSPV` is 1 after a cycle exactly when a rule responded in it (a command that stays in `IDLE`, the end of a raw
read, a division, the end of `PWRDN`), and otherwise `RSTAT` and `RDATA` keep their values. That every cycle of `DIV`
responds is the reference machine's one cycle, the model's choice (log entry 6; R101, R120). -/
def Obligations.ResponseRegistersChangeOnlyByAResponse : Prop :=
  ∀ s t : State, (portNow s).rst_i = false → step s = .next t →
    (t.rspv = true ↔
      (s.st = .idle ∧ (portNow s).cmd_valid_i = true ∧ staysIdle (portNow s) = true) ∨
      (s.st = .done ∧ s.avgMode = false) ∨ s.st = .div ∨ (s.st = .pdLo ∧ s.holdCnt = 0#_)) ∧
    (t.rspv = false → t.rstat = s.rstat ∧ t.rdata = s.rdata)

/-- R141: whatever cycle ends in a failure response, it has changed no element but `RSPV`, `RSTAT`, `RDATA`, and `RDATA`
is 0. -/
def Obligations.FailureChangesOnlyTheResponse : Prop :=
  ∀ s t : State, step s = .next t → t.rspv = true → t.rstat ≠ 0#3 →
    t = { beginCycle s with rspv := true, rstat := t.rstat, rdata := 0#32 }

/-! ### Invariants -/

/-- R54, with the ranges of R38 and R92: every step from a state that meets the invariant leads to one that meets it. -/
def Obligations.StepKeepsTheInvariant : Prop :=
  ∀ s t : State, Inv s → step s = .next t → Inv t

/-- The reset state meets the invariant (R54, R156). -/
def Obligations.ResetMeetsTheInvariant : Prop := Inv State.reset

/-- R30, R39, R100: the width of `HOLDCNT` is the least number of bits, but at least one, that holds `HOLD − 1`, for every
`HOLD`; and starting a phase loads exactly `HOLD − 1`. -/
def Obligations.HoldCounterFitsItsWidth : Prop :=
  (∀ hold : Nat, 1 ≤ hold →
    1 ≤ Config.holdCntWidth hold ∧ hold - 1 < 2 ^ Config.holdCntWidth hold ∧
    (∀ width : Nat, 1 ≤ width → hold - 1 < 2 ^ width → Config.holdCntWidth hold ≤ width)) ∧
  (∀ (level : Bool) (s : State), (startPhase level s).holdCnt.toNat = Config.hold - 1)

/-- R54 v and vi: with the samples the average in progress has taken so far as history, every step keeps `ACC` equal to their
sum and `COUNT − REMAIN` equal to their number. The history is no state of the block (log entry 15). -/
def Obligations.StepKeepsTheSumOfTheSamples : Prop :=
  ∀ (taken : List Int) (s t : State), SumInv taken s → step s = .next t → SumInv (takenAfter s taken) t

/-- The reset state, with no sample taken, meets the invariant of the sum (R54, R156). -/
def Obligations.ResetMeetsTheSumInvariant : Prop := SumInv [] State.reset

/-- R53: two idle states that differ only in the elements R30 calls unobservable show the same outputs in every later
cycle, as long as the runs go on, and stop together. -/
def Obligations.UnobservableElementsNeverReachAnOutput : Prop :=
  ∀ s t : State, s.st = .idle → t.st = .idle → s.sck = t.sck → s.pwr = t.pwr → s.sel = t.sel →
    s.rspv = t.rspv → s.rstat = t.rstat → s.rdata = t.rdata → s.inputs = t.inputs → s.cycle = t.cycle →
    ∀ n, match runFor n s, runFor n t with
      | .next s', .next t' => outputs s' = outputs t'
      | .fault r, .fault r' => r = r'
      | .refused r, .refused r' => r = r'
      | _, _ => False

/-! ### Arithmetic -/

/-- R111: the sample of a 24-bit word as an integer, whole and byte by byte, and its range. -/
def Obligations.SampleIsTheSignedWord : Prop :=
  ∀ w : BitVec 24,
    (sext32 w).toInt = (w.toNat : Int) - 2 ^ 24 * (w.getLsbD 23).toNat ∧
    (sext32 w).toInt =
      (w.extractLsb' 16 8).toInt * 65536 + (w.extractLsb' 8 8).toNat * 256 + (w.extractLsb' 0 8).toNat ∧
    -8388608 ≤ (sext32 w).toInt ∧ (sext32 w).toInt ≤ 8388607

/-- R121: truncating division is the unique quotient whose remainder is smaller than the divisor and is 0 or of the
dividend's sign; it is the quotient rounded toward zero. -/
def Obligations.DivisionTruncatesTowardZero : Prop :=
  ∀ (a : Int) (b : Nat), 1 ≤ b →
    (∀ q : Int, q = tdiv a b ↔ ∃ rem : Int, a = q * b + rem ∧ |rem| < b ∧ (rem = 0 ∨ rem.sign = a.sign)) ∧
    (0 ≤ a → tdiv a b = ⌊(a : ℚ) / b⌋) ∧ (a < 0 → tdiv a b = -⌊(-a : ℚ) / b⌋)

/-- R122: in a state that meets the invariant, accumulation is exact integer addition, and the sum stays within what
65535 samples can reach. -/
def Obligations.AccumulationIsExact : Prop :=
  ∀ s : State, Inv s → (portNow s).rst_i = false → s.st = .done → s.avgMode = true →
    ∃ t, step s = .next t ∧ t.acc.toInt = s.acc.toInt + s.sample.toInt ∧
      -549747425280 ≤ t.acc.toInt ∧ t.acc.toInt ≤ 549747359745

/-- R120, R123: in a state that meets the invariant, `DIV` responds with the truncated quotient, and it is in the range of
one sample. -/
def Obligations.AverageIsInTheRangeOfASample : Prop :=
  ∀ s : State, Inv s → (portNow s).rst_i = false → s.st = .div →
    ∃ t, step s = .next t ∧ t.rspv = true ∧ t.rstat = 0#3 ∧
      t.rdata.toInt = s.acc.toInt.tdiv s.count.toNat ∧
      -8388608 ≤ t.rdata.toInt ∧ t.rdata.toInt ≤ 8388607

/-- R124: the average of `k ≥ 1` samples that are all `v` is `v`. -/
def Obligations.AverageOfAConstantIsTheConstant : Prop :=
  ∀ (k : BitVec 16) (v : BitVec 24), 1 ≤ k.toNat →
    average (BitVec.ofInt 40 (k.toNat * v.toInt)) k = sext32 v

/-! ### Whole commands -/

/-- R103, R110, R111, R114: `RDRAW` accepted now, data-ready first seen in cycle `r`, the data line carrying `w` in the
cycles the block samples and free in every other, and no reset: `r + 2 + 2(24 + P)·HOLD` cycles on, the block is idle with
the line low and responds `OK` with the sign-extended word; `SEL`, `PWR`, `ACC`, `COUNT`, `REMAIN` are as before. -/
def Obligations.RawReadReturnsTheWord : Prop :=
  ∀ (s : State) (r : Nat) (w : BitVec 24), s.st = .idle → s.pwr = false →
    (portNow s).cmd_valid_i = true → decode (portNow s).cmd_word_i = .ok .rdraw →
    NoReset s (r + 2 + frameCycles s.sel) → FirstReady s 1 r → CarriesWord s r w →
    ∃ t, runFor (r + 2 + frameCycles s.sel) s = .next t ∧ t.st = .idle ∧ t.sck = false ∧
      t.rspv = true ∧ t.rstat = 0#3 ∧ t.rdata = w.signExtend 32 ∧
      t.sample = w.signExtend 32 ∧ t.shift = w ∧ t.avgMode = false ∧
      t.sel = s.sel ∧ t.pwr = s.pwr ∧ t.acc = s.acc ∧ t.count = s.count ∧ t.remain = s.remain

/-- R60, R67, R114: the clock line in a frame of `RDRAW` or of a sample of `RDAVG`, from a state that waits for data-ready: data
pulse `k` is high, then low, then selector pulse `j` is high, then low, each for exactly `HOLD` cycles and at the cycles R114's
table gives, and then `DONE`. The bit shifted in by data pulse `k` is the level of the data line in the cycle the table
gives. -/
def Obligations.FrameHasTheWaveformOfTheTable : Prop :=
  ∀ (s : State) (r : Nat), s.st = .waitRdy →
    NoReset s (r + 1 + frameCycles s.sel) → FirstReady s 0 r →
    (∀ k h, k < 24 → h < Config.hold →
      (∃ t, runFor (r + 1 + 2 * k * Config.hold + h) s = .next t ∧
        t.st = .bitHi ∧ t.sck = true ∧ t.bitCnt.toNat = k) ∧
      (∃ t, runFor (r + 1 + (2 * k + 1) * Config.hold + h) s = .next t ∧
        t.st = .bitLo ∧ t.sck = false ∧ t.bitCnt.toNat = k ∧
        t.shift.getLsbD 0 = (portAt s (r + (2 * k + 1) * Config.hold)).dout_i)) ∧
    (∀ j h, j < pulses s.sel → h < Config.hold →
      (∃ t, runFor (r + 1 + 2 * (24 + j) * Config.hold + h) s = .next t ∧ t.st = .pulseHi ∧ t.sck = true) ∧
      (∃ t, runFor (r + 1 + (2 * (24 + j) + 1) * Config.hold + h) s = .next t ∧
        t.st = .pulseLo ∧ t.sck = false)) ∧
    (∃ t, runFor (r + 1 + frameCycles s.sel) s = .next t ∧ t.st = .done ∧ t.sck = false)

/-- R102: the events of `RDRAW` are exactly its acceptance, `RAW`, and its response. The order of the events of one cycle is the
model's reading (log entry 12). -/
def Obligations.RawReadHasTheEventsOfTheTrace : Prop :=
  ∀ (s : State) (r : Nat) (w : BitVec 24), s.st = .idle → s.pwr = false → s.sck = false →
    (portNow s).cmd_valid_i = true → decode (portNow s).cmd_word_i = .ok .rdraw →
    NoReset s (r + 2 + frameCycles s.sel) → FirstReady s 1 r → CarriesWord s r w →
    traceFor (r + 2 + frameCycles s.sel) s =
      [.accept (some .rdraw)] ++ rawEvents w s.sel ++ [.respond 0#3 (w.signExtend 32)]

/-- R115, R118, R119, R120, R127: `RDAVG c` accepted now. Sample `j` waits from cycle `start j` for the slot of cycle
`slot j`, then for the data-ready of cycle `ready j`, and carries the word `w j`. After the last sample the block divides and
responds `OK` with the truncated average; `SEL` and `PWR` are as before. One cycle of division as in the reference machine
(log entry 6). -/
def Obligations.AveragedReadReturnsTheAverage : Prop :=
  ∀ (s : State) (c : BitVec 16) (start slot ready : Nat → Nat) (w : Nat → BitVec 24),
    s.st = .idle → s.pwr = false →
    (portNow s).cmd_valid_i = true → decode (portNow s).cmd_word_i = .ok (.rdavg c) → 1 ≤ c.toNat →
    start 0 = 1 →
    (∀ j < c.toNat, FirstSlot s (start j) (slot j) ∧ FirstReady s (slot j + 1) (ready j) ∧
      CarriesWord s (ready j) (w j) ∧ start (j + 1) = ready j + 2 + frameCycles s.sel) →
    NoReset s (start c.toNat + 1) →
    ∃ t, runFor (start c.toNat + 1) s = .next t ∧ t.st = .idle ∧ t.sck = false ∧
      t.rspv = true ∧ t.rstat = 0#3 ∧
      t.rdata.toInt = ((List.range c.toNat).map fun j => (w j).toInt).sum.tdiv c.toNat ∧
      t.acc.toInt = ((List.range c.toNat).map fun j => (w j).toInt).sum ∧
      t.count = c ∧ t.remain = 0#16 ∧ t.sel = s.sel ∧ t.pwr = s.pwr

/-- R54 v, R119: in an averaged read as above, when sample `j` starts to wait (`j < c`), or the division (`j = c`), `ACC` is the
exact sum of the first `j` words and `REMAIN` is `c − j`. -/
def Obligations.AveragedReadSumsTheSamplesSoFar : Prop :=
  ∀ (s : State) (c : BitVec 16) (start slot ready : Nat → Nat) (w : Nat → BitVec 24),
    s.st = .idle → s.pwr = false → s.sck = false →
    (portNow s).cmd_valid_i = true → decode (portNow s).cmd_word_i = .ok (.rdavg c) → 1 ≤ c.toNat →
    start 0 = 1 →
    (∀ j < c.toNat, FirstSlot s (start j) (slot j) ∧ FirstReady s (slot j + 1) (ready j) ∧
      CarriesWord s (ready j) (w j) ∧ start (j + 1) = ready j + 2 + frameCycles s.sel) →
    NoReset s (start c.toNat) →
    ∀ j ≤ c.toNat, ∃ t, runFor (start j) s = .next t ∧
      t.st = (if j = c.toNat then .div else .waitSlot) ∧ t.sck = false ∧ t.avgMode = true ∧
      t.acc.toInt = ((List.range j).map fun i => (w i).toInt).sum ∧
      t.count = c ∧ t.remain.toNat = c.toNat - j

/-- R144: as long as data-ready or the slot does not come, and there is no reset, the block stays where it waits, busy and
without a response, however long that is. -/
def Obligations.WaitsHaveNoBound : Prop :=
  ∀ (s : State) (n : Nat), NoReset s n →
    (s.st = .waitRdy → (∀ k < n, (portAt s k).dout_i = true) →
      ∃ t, runFor n s = .next t ∧ t.st = .waitRdy ∧ t.sck = s.sck ∧ (0 < n → t.rspv = false)) ∧
    (s.st = .waitSlot → (∀ k < n, (portAt s k).slot_i = false) →
      ∃ t, runFor n s = .next t ∧ t.st = .waitSlot ∧ t.sck = s.sck ∧ (0 < n → t.rspv = false))

/-- R78, R144: under the fairness premise on the device, and with no reset, every accepted `RDRAW` responds: within `T_CONV` and
a frame there is a cycle after the acceptance in which the block is idle with the response `OK`, and in every cycle between the
block is busy and shows no response. That the bound counts from the start of the wait is the model's reading of R15 (log
entry 14). -/
def Obligations.RawReadEndsWhenDataReadyIsFair : Prop :=
  ∀ s : State, s.st = .idle → s.pwr = false →
    (portNow s).cmd_valid_i = true → decode (portNow s).cmd_word_i = .ok .rdraw →
    NoReset s (1 + Config.tConvCycles + 2 + frameCycles s.sel) → DataReadyFair s 1 →
    ∃ n t, 1 ≤ n ∧ n ≤ 1 + Config.tConvCycles + 2 + frameCycles s.sel ∧ runFor n s = .next t ∧
      t.st = .idle ∧ t.rspv = true ∧ t.rstat = 0#3 ∧
      (∀ m, 1 ≤ m → m < n → ∃ u, runFor m s = .next u ∧ u.st ≠ .idle ∧ u.rspv = false)

/-! ### Timing and the device -/

/-- R174, R8: under the timing contract a frame lasts at least `(24 + P) · 4` microseconds. -/
def Obligations.FrameLastsFourMicrosecondsAPulse : Prop :=
  ∀ (fClkHz tPdMinNs : Nat) (v : BitVec 2), Config.TimingContractAt fClkHz Config.hold tPdMinNs →
    (24 + pulses v) * 4 * fClkHz ≤ frameCycles v * 1000000

/-- R74, R80, R160, R161: under the timing contract every phase is long enough for the device to settle, and no high
phase of a frame is long enough to power it down. -/
def Obligations.PhasesSuitTheDevice : Prop :=
  ∀ fClkHz tPdMinNs : Nat, Config.TimingContractAt fClkHz Config.hold tPdMinNs →
    Config.settleCyclesAt fClkHz ≤ Config.hold ∧ Config.hold ≤ Config.pdCyclesAt fClkHz tPdMinNs

/-- R74, R75, R103 on the closed system: a device that shows the result `w` ready, a raw read accepted now, phases that suit the
device's delays, and no reset: the read returns the device's word. In the last cycle of the frame the device has counted
`24 + pulses(SEL)` pulses, and after it, with `SEL` not 0, the device converts in the mode `SEL` selects, or already shows that
conversion's result. With `SEL` = 0 it stays in its prior mode and its line is free (`93` U2). Log entry 9 for what no rule of
the device gives. -/
def Obligations.ClosedRawReadReturnsTheResultAndProgramsTheMode : Prop :=
  ∀ (c : ClosedState) (w : BitVec 24) (p : PortInputs) (d : AdcDraw) (rest : List (PortInputs × AdcDraw)),
    c.adc.settleCycles ≤ Config.hold → Config.hold ≤ c.adc.pdCycles →
    c.block.st = .idle → c.block.pwr = false → c.block.sck = false →
    c.adc.phase = .ready w → c.adc.sckWas = false → c.adc.highFor = 0 →
    p.cmd_valid_i = true → decode p.cmd_word_i = .ok .rdraw →
    (∀ x ∈ (p, d) :: rest, x.1.rst_i = false) →
    rest.length = 2 + frameCycles c.block.sel →
    (∃ c₁ : ClosedState, closedRun (((p, d) :: rest).take (1 + frameCycles c.block.sel)) c = .next c₁ ∧
      c₁.adc.phase = .frame w (24 + pulses c.block.sel)) ∧
    (∃ c' : ClosedState, closedRun ((p, d) :: rest) c = .next c' ∧
      c'.block.st = .idle ∧ c'.block.rspv = true ∧ c'.block.rstat = 0#3 ∧
      c'.block.rdata = w.signExtend 32 ∧
      (c.block.sel ≠ 0#2 → c'.adc.mode = c.block.sel ∧
        (c'.adc.phase = .converting ∨ ∃ v, c'.adc.phase = .ready v)) ∧
      (c.block.sel = 0#2 → c'.adc.mode = c.adc.mode ∧ c'.adc.phase = .lost))

/-- R81, R165, `93` U2 and U3: a device in the undefined state after a cut frame, a frame of 24 pulses or a short power-down
stays there, whatever the block and the host do and however the draws fall, complete frames of later reads included, and its
data line is the free draw of each cycle, until the clock line has been high longer than `T_PD_MIN` (log entry 9 for that way
out). -/
def Obligations.LostDeviceIsLeftOnlyByAPowerDown : Prop :=
  ∀ (c c' : ClosedState) (p : PortInputs) (d : AdcDraw), c.adc.phase = .lost → closedStep p d c = .next c' →
    (c'.adc.phase = .lost ∨
      (c'.adc.phase = .poweredDown ∧ c.block.sck = true ∧ c.adc.pdCycles < c.adc.highFor + 1)) ∧
    (¬(c.block.sck = true ∧ c.adc.pdCycles < c.adc.highFor + 1) →
      c'.adc.phase = .lost ∧ adcLine d (adcSees c.block.sck c.adc) = d.level)
end

