-- ==== Sys2Proof/Laws/State.lean ====
section
/-!
SUPPORT. One lemma for each field and each named update of the state, so that no proof unfolds a record update.
-/

namespace Sys2Proof.Machine

/-! ### The frame of a cycle -/

@[simp] theorem beginCycle_st (s : State) : (beginCycle s).st = s.st := rfl
@[simp] theorem beginCycle_sck (s : State) : (beginCycle s).sck = s.sck := rfl
@[simp] theorem beginCycle_pwr (s : State) : (beginCycle s).pwr = s.pwr := rfl
@[simp] theorem beginCycle_sel (s : State) : (beginCycle s).sel = s.sel := rfl
@[simp] theorem beginCycle_shift (s : State) : (beginCycle s).shift = s.shift := rfl
@[simp] theorem beginCycle_bitCnt (s : State) : (beginCycle s).bitCnt = s.bitCnt := rfl
@[simp] theorem beginCycle_pulseCnt (s : State) : (beginCycle s).pulseCnt = s.pulseCnt := rfl
@[simp] theorem beginCycle_holdCnt (s : State) : (beginCycle s).holdCnt = s.holdCnt := rfl
@[simp] theorem beginCycle_sample (s : State) : (beginCycle s).sample = s.sample := rfl
@[simp] theorem beginCycle_acc (s : State) : (beginCycle s).acc = s.acc := rfl
@[simp] theorem beginCycle_count (s : State) : (beginCycle s).count = s.count := rfl
@[simp] theorem beginCycle_remain (s : State) : (beginCycle s).remain = s.remain := rfl
@[simp] theorem beginCycle_avgMode (s : State) : (beginCycle s).avgMode = s.avgMode := rfl
@[simp] theorem beginCycle_rspv (s : State) : (beginCycle s).rspv = false := rfl
@[simp] theorem beginCycle_rstat (s : State) : (beginCycle s).rstat = s.rstat := rfl
@[simp] theorem beginCycle_rdata (s : State) : (beginCycle s).rdata = s.rdata := rfl
@[simp] theorem beginCycle_inputs (s : State) : (beginCycle s).inputs = s.inputs.tail := rfl
@[simp] theorem beginCycle_cycle (s : State) : (beginCycle s).cycle = s.cycle + 1 := rfl

/-! ### The response -/

@[simp] theorem respond_st (r : Status) (d : BitVec 32) (s : State) : (respond r d s).st = s.st := rfl
@[simp] theorem respond_sck (r : Status) (d : BitVec 32) (s : State) : (respond r d s).sck = s.sck := rfl
@[simp] theorem respond_pwr (r : Status) (d : BitVec 32) (s : State) : (respond r d s).pwr = s.pwr := rfl
@[simp] theorem respond_sel (r : Status) (d : BitVec 32) (s : State) : (respond r d s).sel = s.sel := rfl
@[simp] theorem respond_shift (r : Status) (d : BitVec 32) (s : State) : (respond r d s).shift = s.shift := rfl
@[simp] theorem respond_bitCnt (r : Status) (d : BitVec 32) (s : State) : (respond r d s).bitCnt = s.bitCnt := rfl
@[simp] theorem respond_pulseCnt (r : Status) (d : BitVec 32) (s : State) : (respond r d s).pulseCnt = s.pulseCnt := rfl
@[simp] theorem respond_holdCnt (r : Status) (d : BitVec 32) (s : State) : (respond r d s).holdCnt = s.holdCnt := rfl
@[simp] theorem respond_sample (r : Status) (d : BitVec 32) (s : State) : (respond r d s).sample = s.sample := rfl
@[simp] theorem respond_acc (r : Status) (d : BitVec 32) (s : State) : (respond r d s).acc = s.acc := rfl
@[simp] theorem respond_count (r : Status) (d : BitVec 32) (s : State) : (respond r d s).count = s.count := rfl
@[simp] theorem respond_remain (r : Status) (d : BitVec 32) (s : State) : (respond r d s).remain = s.remain := rfl
@[simp] theorem respond_avgMode (r : Status) (d : BitVec 32) (s : State) : (respond r d s).avgMode = s.avgMode := rfl
@[simp] theorem respond_rspv (r : Status) (d : BitVec 32) (s : State) : (respond r d s).rspv = true := rfl
@[simp] theorem respond_rstat (r : Status) (d : BitVec 32) (s : State) : (respond r d s).rstat = statusCode r := rfl
@[simp] theorem respond_rdata (r : Status) (d : BitVec 32) (s : State) : (respond r d s).rdata = d := rfl
@[simp] theorem respond_inputs (r : Status) (d : BitVec 32) (s : State) : (respond r d s).inputs = s.inputs := rfl
@[simp] theorem respond_cycle (r : Status) (d : BitVec 32) (s : State) : (respond r d s).cycle = s.cycle := rfl

/-! ### The failure response -/

@[simp] theorem failWith_st (r : Status) (s : State) : (failWith r s).st = s.st := rfl
@[simp] theorem failWith_sck (r : Status) (s : State) : (failWith r s).sck = s.sck := rfl
@[simp] theorem failWith_pwr (r : Status) (s : State) : (failWith r s).pwr = s.pwr := rfl
@[simp] theorem failWith_sel (r : Status) (s : State) : (failWith r s).sel = s.sel := rfl
@[simp] theorem failWith_shift (r : Status) (s : State) : (failWith r s).shift = s.shift := rfl
@[simp] theorem failWith_bitCnt (r : Status) (s : State) : (failWith r s).bitCnt = s.bitCnt := rfl
@[simp] theorem failWith_pulseCnt (r : Status) (s : State) : (failWith r s).pulseCnt = s.pulseCnt := rfl
@[simp] theorem failWith_holdCnt (r : Status) (s : State) : (failWith r s).holdCnt = s.holdCnt := rfl
@[simp] theorem failWith_sample (r : Status) (s : State) : (failWith r s).sample = s.sample := rfl
@[simp] theorem failWith_acc (r : Status) (s : State) : (failWith r s).acc = s.acc := rfl
@[simp] theorem failWith_count (r : Status) (s : State) : (failWith r s).count = s.count := rfl
@[simp] theorem failWith_remain (r : Status) (s : State) : (failWith r s).remain = s.remain := rfl
@[simp] theorem failWith_avgMode (r : Status) (s : State) : (failWith r s).avgMode = s.avgMode := rfl
@[simp] theorem failWith_rspv (r : Status) (s : State) : (failWith r s).rspv = true := rfl
@[simp] theorem failWith_rstat (r : Status) (s : State) : (failWith r s).rstat = statusCode r := rfl
@[simp] theorem failWith_rdata (r : Status) (s : State) : (failWith r s).rdata = 0#32 := rfl
@[simp] theorem failWith_inputs (r : Status) (s : State) : (failWith r s).inputs = s.inputs := rfl
@[simp] theorem failWith_cycle (r : Status) (s : State) : (failWith r s).cycle = s.cycle := rfl

/-! ### The start of a phase -/

@[simp] theorem startPhase_st (level : Bool) (s : State) : (startPhase level s).st = s.st := rfl
@[simp] theorem startPhase_sck (level : Bool) (s : State) : (startPhase level s).sck = level := rfl
@[simp] theorem startPhase_pwr (level : Bool) (s : State) : (startPhase level s).pwr = s.pwr := rfl
@[simp] theorem startPhase_sel (level : Bool) (s : State) : (startPhase level s).sel = s.sel := rfl
@[simp] theorem startPhase_shift (level : Bool) (s : State) : (startPhase level s).shift = s.shift := rfl
@[simp] theorem startPhase_bitCnt (level : Bool) (s : State) : (startPhase level s).bitCnt = s.bitCnt := rfl
@[simp] theorem startPhase_pulseCnt (level : Bool) (s : State) : (startPhase level s).pulseCnt = s.pulseCnt := rfl
@[simp] theorem startPhase_holdCnt (level : Bool) (s : State) : (startPhase level s).holdCnt = holdReload := rfl
@[simp] theorem startPhase_sample (level : Bool) (s : State) : (startPhase level s).sample = s.sample := rfl
@[simp] theorem startPhase_acc (level : Bool) (s : State) : (startPhase level s).acc = s.acc := rfl
@[simp] theorem startPhase_count (level : Bool) (s : State) : (startPhase level s).count = s.count := rfl
@[simp] theorem startPhase_remain (level : Bool) (s : State) : (startPhase level s).remain = s.remain := rfl
@[simp] theorem startPhase_avgMode (level : Bool) (s : State) : (startPhase level s).avgMode = s.avgMode := rfl
@[simp] theorem startPhase_rspv (level : Bool) (s : State) : (startPhase level s).rspv = s.rspv := rfl
@[simp] theorem startPhase_rstat (level : Bool) (s : State) : (startPhase level s).rstat = s.rstat := rfl
@[simp] theorem startPhase_rdata (level : Bool) (s : State) : (startPhase level s).rdata = s.rdata := rfl
@[simp] theorem startPhase_inputs (level : Bool) (s : State) : (startPhase level s).inputs = s.inputs := rfl
@[simp] theorem startPhase_cycle (level : Bool) (s : State) : (startPhase level s).cycle = s.cycle := rfl

/-! ### The input ports -/

@[simp] theorem drive_st (p : PortInputs) (s : State) : (drive p s).st = s.st := rfl
@[simp] theorem drive_sck (p : PortInputs) (s : State) : (drive p s).sck = s.sck := rfl
@[simp] theorem drive_pwr (p : PortInputs) (s : State) : (drive p s).pwr = s.pwr := rfl
@[simp] theorem drive_sel (p : PortInputs) (s : State) : (drive p s).sel = s.sel := rfl
@[simp] theorem drive_shift (p : PortInputs) (s : State) : (drive p s).shift = s.shift := rfl
@[simp] theorem drive_bitCnt (p : PortInputs) (s : State) : (drive p s).bitCnt = s.bitCnt := rfl
@[simp] theorem drive_pulseCnt (p : PortInputs) (s : State) : (drive p s).pulseCnt = s.pulseCnt := rfl
@[simp] theorem drive_holdCnt (p : PortInputs) (s : State) : (drive p s).holdCnt = s.holdCnt := rfl
@[simp] theorem drive_sample (p : PortInputs) (s : State) : (drive p s).sample = s.sample := rfl
@[simp] theorem drive_acc (p : PortInputs) (s : State) : (drive p s).acc = s.acc := rfl
@[simp] theorem drive_count (p : PortInputs) (s : State) : (drive p s).count = s.count := rfl
@[simp] theorem drive_remain (p : PortInputs) (s : State) : (drive p s).remain = s.remain := rfl
@[simp] theorem drive_avgMode (p : PortInputs) (s : State) : (drive p s).avgMode = s.avgMode := rfl
@[simp] theorem drive_rspv (p : PortInputs) (s : State) : (drive p s).rspv = s.rspv := rfl
@[simp] theorem drive_rstat (p : PortInputs) (s : State) : (drive p s).rstat = s.rstat := rfl
@[simp] theorem drive_rdata (p : PortInputs) (s : State) : (drive p s).rdata = s.rdata := rfl
@[simp] theorem drive_inputs (p : PortInputs) (s : State) : (drive p s).inputs = p :: s.inputs.tail := rfl
@[simp] theorem drive_cycle (p : PortInputs) (s : State) : (drive p s).cycle = s.cycle := rfl

/-! ### Reset -/

@[simp] theorem resetCycle_st (s : State) : (resetCycle s).st = .idle := rfl
@[simp] theorem resetCycle_sck (s : State) : (resetCycle s).sck = false := rfl
@[simp] theorem resetCycle_pwr (s : State) : (resetCycle s).pwr = false := rfl
@[simp] theorem resetCycle_sel (s : State) : (resetCycle s).sel = 1#2 := rfl
@[simp] theorem resetCycle_shift (s : State) : (resetCycle s).shift = 0#24 := rfl
@[simp] theorem resetCycle_bitCnt (s : State) : (resetCycle s).bitCnt = 0#5 := rfl
@[simp] theorem resetCycle_pulseCnt (s : State) : (resetCycle s).pulseCnt = 0#2 := rfl
@[simp] theorem resetCycle_holdCnt (s : State) : (resetCycle s).holdCnt = 0#_ := rfl
@[simp] theorem resetCycle_sample (s : State) : (resetCycle s).sample = 0#32 := rfl
@[simp] theorem resetCycle_acc (s : State) : (resetCycle s).acc = 0#40 := rfl
@[simp] theorem resetCycle_count (s : State) : (resetCycle s).count = 0#16 := rfl
@[simp] theorem resetCycle_remain (s : State) : (resetCycle s).remain = 0#16 := rfl
@[simp] theorem resetCycle_avgMode (s : State) : (resetCycle s).avgMode = false := rfl
@[simp] theorem resetCycle_rspv (s : State) : (resetCycle s).rspv = false := rfl
@[simp] theorem resetCycle_rstat (s : State) : (resetCycle s).rstat = 0#3 := rfl
@[simp] theorem resetCycle_rdata (s : State) : (resetCycle s).rdata = 0#32 := rfl
@[simp] theorem resetCycle_inputs (s : State) : (resetCycle s).inputs = s.inputs.tail := rfl
@[simp] theorem resetCycle_cycle (s : State) : (resetCycle s).cycle = s.cycle + 1 := rfl

end Sys2Proof.Machine
end

