-- ==== Sys2Proof/Laws/Ops.lean ====
section
/-!
SUPPORT. What the shared operations do: reading the ports, a cycle of a phase, a response, and the arithmetic of
`42_average.md` R125 in terms of integers.
-/

namespace Sys2Proof.Machine

/-! ### Ports -/

theorem portNow_drive (p : PortInputs) (s : State) : portNow (drive p s) = p := by
  simp [portNow, portAt]

theorem portAt_beginCycle (s : State) (k : Nat) : portAt (beginCycle s) k = portAt s (k + 1) := by
  cases h : s.inputs <;> simp [portAt, h, Nat.add_assoc, Nat.add_comm 1 k]

theorem portAt_drive_succ (p : PortInputs) (s : State) (k : Nat) :
    portAt (drive p s) (k + 1) = portAt s (k + 1) := by
  cases h : s.inputs <;> simp [portAt, h]

/-- The ports of a state depend on its listed inputs and its cycle number alone. -/
theorem portAt_congr {s t : State} (hi : s.inputs = t.inputs) (hc : s.cycle = t.cycle) (k : Nat) :
    portAt s k = portAt t k := by
  simp [portAt, hi, hc]

/-! ### Phases -/

theorem duringPhase_counting (f : State → State) (s : State) (h : s.holdCnt ≠ 0#_) :
    duringPhase f s = { s with holdCnt := s.holdCnt - 1#_ } := by
  simp [duringPhase, h]

theorem duringPhase_ending (f : State → State) (s : State) (h : s.holdCnt = 0#_) :
    duringPhase f s = f s := by
  simp [duringPhase, h]

theorem hold_pos : 0 < Config.hold := Nat.succ_pos _

theorem holdCntWidth_pos (hold : Nat) : 0 < Config.holdCntWidth hold := by
  unfold Config.holdCntWidth
  omega

/-- `HOLDCNT` has at least one bit, so it can hold 1. -/
theorem holdCount_one_ne_zero : (1#_ : HoldCount) ≠ 0#_ := by
  intro h
  have hw : 1 < 2 ^ Config.holdCntWidth Config.hold := Nat.one_lt_two_pow (holdCntWidth_pos _).ne'
  have := congrArg BitVec.toNat h
  simp [Nat.mod_eq_of_lt hw] at this

/-- Counting down from a value that is not 0 does not wrap (R49). -/
theorem holdCount_sub_one_toNat (c : HoldCount) (h : c ≠ 0#_) : (c - 1#_).toNat = c.toNat - 1 := by
  have hw : 1 < 2 ^ Config.holdCntWidth Config.hold := Nat.one_lt_two_pow (holdCntWidth_pos _).ne'
  have hc : c.toNat ≠ 0 := fun h0 => h (BitVec.eq_of_toNat_eq (by simpa using h0))
  have := c.isLt
  rw [BitVec.toNat_sub, BitVec.toNat_ofNat, Nat.mod_eq_of_lt hw,
    show 2 ^ Config.holdCntWidth Config.hold - 1 + c.toNat = c.toNat - 1 + 2 ^ Config.holdCntWidth Config.hold by omega,
    Nat.add_mod_right, Nat.mod_eq_of_lt (by omega)]

/-! ### Selector -/

theorem pulses_eq_toNat (s : Selector) : pulses s = s.toNat := by
  revert s; decide

theorem pulses_le_three (s : Selector) : pulses s ≤ 3 := by
  revert s; decide

theorem pulsesAfterFirst_toNat (s : Selector) : (pulsesAfterFirst s).toNat = pulses s - 1 := by
  revert s; decide

/-! ### Arithmetic -/

theorem tdiv_eq_int_tdiv (a : Int) (b : Nat) : tdiv a b = a.tdiv b := by
  unfold tdiv
  split
  · exact (Int.tdiv_eq_ediv_of_nonneg ‹_›).symm
  · rw [← Int.tdiv_eq_ediv_of_nonneg (by omega), Int.neg_tdiv, Int.neg_neg]

theorem average_of_count_ne_zero (acc : Acc) {count : Count} (h : count ≠ 0#16) :
    average acc count = BitVec.ofInt 32 (tdiv acc.toInt count.toNat) := by
  simp [average, h]

/-- The bits of a shifted register: bit 0 is the new bit, every other comes from one place below (R36). -/
theorem shiftIn_getLsbD (shift : Raw) (bit : Bool) (i : Nat) (hi : i < 24) :
    (shiftIn shift bit).getLsbD i = if i = 0 then bit else shift.getLsbD (i - 1) := by
  unfold shiftIn
  rw [BitVec.getLsbD_append]
  rcases i with _ | i
  · simp
  · simp [BitVec.getLsbD_extractLsb']
    omega

end Sys2Proof.Machine
end

