-- ==== Sys2Proof/Laws/PerInstr.lean ====
section
/-!
SUPPORT. Statements made of every command, one lemma a constructor. Family `TableRow`: the word of a command is of its
row of the opcode map (`30_encoding.md` R86), and the row is in the table.
-/

namespace Sys2Proof.Laws.TableRow

/-- The word of `i` is `i`'s row exactly (R86), and that row is one of the six. -/
def Statement (i : Sys2Proof.Instr) : Prop :=
  i.row.covers (Sys2Proof.encode i) = true ∧ i.row ∈ Sys2Proof.opcodeTable

theorem rdraw : Statement .rdraw := by unfold Statement; decide

theorem rdavg (count : Sys2Proof.Count) : Statement (.rdavg count) := by
  refine ⟨?_, by simp [Sys2Proof.Instr.row, Sys2Proof.opcodeTable]⟩
  simp only [Sys2Proof.OpcodeRow.covers, Sys2Proof.Instr.row, Sys2Proof.encode, Sys2Proof.wordOf, Sys2Proof.Instr.op,
    Sys2Proof.Instr.arg, beq_iff_eq]
  ext i hi
  simp only [BitVec.getElem_and, BitVec.getElem_append]
  interval_cases i <;> simp

theorem setcg (sel : Sys2Proof.Selector) : Statement (.setcg sel) := by
  revert sel; unfold Statement; decide

theorem getcg : Statement .getcg := by unfold Statement; decide

theorem pwrdn : Statement .pwrdn := by unfold Statement; decide

theorem pwrup : Statement .pwrup := by unfold Statement; decide

end Sys2Proof.Laws.TableRow
end

