-- ==== Sys2Proof/Laws/Step.lean ====
section
/-!
SUPPORT. What a step can do, said once: one equation for each sequencer state, so that no proof unfolds the step
function, and the laws of runs.
-/

namespace Sys2Proof.Machine

theorem step_of_reset {s : State} (h : (portNow s).rst_i = true) : step s = .next (resetCycle s) := by
  simp [step, oneCycle, h]

/-- A cycle without reset runs the rule of the sequencer state. -/
theorem step_of_running {s : State} (h : (portNow s).rst_i = false) :
    step s = stateRule exec (portNow s) (beginCycle s) := by
  simp [step, oneCycle, h]

theorem step_of_idle {s : State} (h : (portNow s).rst_i = false) (hst : s.st = .idle) :
    step s = idleRule exec (portNow s) (beginCycle s) := by
  simp [step_of_running h, stateRule, hst]

theorem step_of_waitSlot {s : State} (h : (portNow s).rst_i = false) (hst : s.st = .waitSlot) :
    step s = .next (waitSlotRule (portNow s) (beginCycle s)) := by
  simp [step_of_running h, stateRule, hst]

theorem step_of_waitRdy {s : State} (h : (portNow s).rst_i = false) (hst : s.st = .waitRdy) :
    step s = .next (waitRdyRule (portNow s) (beginCycle s)) := by
  simp [step_of_running h, stateRule, hst]

theorem step_of_bitHi {s : State} (h : (portNow s).rst_i = false) (hst : s.st = .bitHi) :
    step s = .next (bitHiRule (portNow s) (beginCycle s)) := by
  simp [step_of_running h, stateRule, hst]

theorem step_of_bitLo {s : State} (h : (portNow s).rst_i = false) (hst : s.st = .bitLo) :
    step s = .next (bitLoRule (beginCycle s)) := by
  simp [step_of_running h, stateRule, hst]

theorem step_of_pulseHi {s : State} (h : (portNow s).rst_i = false) (hst : s.st = .pulseHi) :
    step s = .next (pulseHiRule (beginCycle s)) := by
  simp [step_of_running h, stateRule, hst]

theorem step_of_pulseLo {s : State} (h : (portNow s).rst_i = false) (hst : s.st = .pulseLo) :
    step s = .next (pulseLoRule (beginCycle s)) := by
  simp [step_of_running h, stateRule, hst]

theorem step_of_done {s : State} (h : (portNow s).rst_i = false) (hst : s.st = .done) :
    step s = .next (doneRule (beginCycle s)) := by
  simp [step_of_running h, stateRule, hst]

theorem step_of_div {s : State} (h : (portNow s).rst_i = false) (hst : s.st = .div) :
    step s = .next (divRule (beginCycle s)) := by
  simp [step_of_running h, stateRule, hst]

theorem step_of_pdLo {s : State} (h : (portNow s).rst_i = false) (hst : s.st = .pdLo) :
    step s = .next (pdLoRule (beginCycle s)) := by
  simp [step_of_running h, stateRule, hst]

/-! ### Runs -/

@[simp] theorem runFor_zero (s : State) : runFor 0 s = .next s := rfl

theorem runFor_succ_of_next {s t : State} (k : Nat) (h : step s = .next t) :
    runFor (k + 1) s = runFor k t := by
  simp [runFor, h]

/-- A run of `a + b` cycles whose first `a` end in a next state goes on from that state. -/
theorem runFor_add {s t : State} (a b : Nat) (h : runFor a s = .next t) :
    runFor (a + b) s = runFor b t := by
  induction a generalizing s with
  | zero =>
    have : s = t := by simpa using h
    simp [this]
  | succ a ih =>
    rw [Nat.succ_add]
    cases hs : step s with
    | next u =>
      rw [runFor_succ_of_next _ hs] at h ⊢
      exact ih h
    | fault r => simp [runFor, hs] at h
    | refused r => simp [runFor, hs] at h

theorem traceFor_succ_of_next {s t : State} (k : Nat) (h : step s = .next t) :
    traceFor (k + 1) s = eventsOf s t ++ traceFor k t := by
  simp [traceFor, h]

/-! ### The inversion of a step -/

/-- Everything a step that answers a next state can have done: `StepCase s t` has one constructor for each way. -/
inductive StepCase (s : State) : State → Prop where
  | reset : (portNow s).rst_i = true → StepCase s (resetCycle s)
  | quiet : (portNow s).rst_i = false → s.st = .idle → (portNow s).cmd_valid_i = false → StepCase s (beginCycle s)
  | illegal (e : Illegal) : (portNow s).rst_i = false → s.st = .idle → (portNow s).cmd_valid_i = true →
      decode (portNow s).cmd_word_i = .error e → StepCase s (failWith .illegalCommand (beginCycle s))
  | rdraw : (portNow s).rst_i = false → s.st = .idle → (portNow s).cmd_valid_i = true →
      decode (portNow s).cmd_word_i = .ok .rdraw → s.pwr = false →
      StepCase s { beginCycle s with avgMode := false, st := .waitRdy }
  | rdavgZero : (portNow s).rst_i = false → s.st = .idle → (portNow s).cmd_valid_i = true →
      decode (portNow s).cmd_word_i = .ok (.rdavg 0#16) →
      StepCase s (failWith .preconditionViolation (beginCycle s))
  | rdavg (c : Count) : (portNow s).rst_i = false → s.st = .idle → (portNow s).cmd_valid_i = true →
      decode (portNow s).cmd_word_i = .ok (.rdavg c) → c ≠ 0#16 → s.pwr = false →
      StepCase s { beginCycle s with avgMode := true, count := c, remain := c, acc := 0#40, st := .waitSlot }
  | setcg (v : Selector) : (portNow s).rst_i = false → s.st = .idle → (portNow s).cmd_valid_i = true →
      decode (portNow s).cmd_word_i = .ok (.setcg v) →
      StepCase s (respond .ok (zext32 v) { beginCycle s with sel := v })
  | getcg : (portNow s).rst_i = false → s.st = .idle → (portNow s).cmd_valid_i = true →
      decode (portNow s).cmd_word_i = .ok .getcg → StepCase s (respond .ok (zext32 s.sel) (beginCycle s))
  | pwrdn : (portNow s).rst_i = false → s.st = .idle → (portNow s).cmd_valid_i = true →
      decode (portNow s).cmd_word_i = .ok .pwrdn →
      StepCase s { startPhase false (beginCycle s) with st := .pdLo }
  | pwrup : (portNow s).rst_i = false → s.st = .idle → (portNow s).cmd_valid_i = true →
      decode (portNow s).cmd_word_i = .ok .pwrup →
      StepCase s (respond .ok 0#32 { beginCycle s with sck := false, pwr := false })
  | slotWait : (portNow s).rst_i = false → s.st = .waitSlot → (portNow s).slot_i = false →
      StepCase s (beginCycle s)
  | slotSeen : (portNow s).rst_i = false → s.st = .waitSlot → (portNow s).slot_i = true →
      StepCase s { beginCycle s with st := .waitRdy }
  | readyWait : (portNow s).rst_i = false → s.st = .waitRdy → (portNow s).dout_i = true →
      StepCase s (beginCycle s)
  | readySeen : (portNow s).rst_i = false → s.st = .waitRdy → (portNow s).dout_i = false →
      StepCase s { startPhase true (beginCycle s) with bitCnt := 0#5, st := .bitHi }
  | counting : (portNow s).rst_i = false → s.st ∈ [SeqState.bitHi, .bitLo, .pulseHi, .pulseLo, .pdLo] →
      s.holdCnt ≠ 0#_ → StepCase s { beginCycle s with holdCnt := s.holdCnt - 1#_ }
  | bitHiEnd : (portNow s).rst_i = false → s.st = .bitHi → s.holdCnt = 0#_ →
      StepCase s { startPhase false (beginCycle s) with shift := shiftIn s.shift (portNow s).dout_i, st := .bitLo }
  | nextBit : (portNow s).rst_i = false → s.st = .bitLo → s.holdCnt = 0#_ → s.bitCnt ≠ 23#5 →
      StepCase s { startPhase true (beginCycle s) with bitCnt := s.bitCnt + 1#5, st := .bitHi }
  | lastBitNoPulse : (portNow s).rst_i = false → s.st = .bitLo → s.holdCnt = 0#_ → s.bitCnt = 23#5 →
      pulses s.sel = 0 → StepCase s { beginCycle s with sample := sext32 s.shift, st := .done }
  | lastBit : (portNow s).rst_i = false → s.st = .bitLo → s.holdCnt = 0#_ → s.bitCnt = 23#5 →
      pulses s.sel ≠ 0 →
      StepCase s { startPhase true (beginCycle s) with
        sample := sext32 s.shift, pulseCnt := pulsesAfterFirst s.sel, st := .pulseHi }
  | pulseHiEnd : (portNow s).rst_i = false → s.st = .pulseHi → s.holdCnt = 0#_ →
      StepCase s { startPhase false (beginCycle s) with st := .pulseLo }
  | nextPulse : (portNow s).rst_i = false → s.st = .pulseLo → s.holdCnt = 0#_ → s.pulseCnt ≠ 0#2 →
      StepCase s { startPhase true (beginCycle s) with pulseCnt := s.pulseCnt - 1#2, st := .pulseHi }
  | lastPulse : (portNow s).rst_i = false → s.st = .pulseLo → s.holdCnt = 0#_ → s.pulseCnt = 0#2 →
      StepCase s { beginCycle s with st := .done }
  | doneRaw : (portNow s).rst_i = false → s.st = .done → s.avgMode = false →
      StepCase s (respond .ok s.sample { beginCycle s with st := .idle })
  | doneMore : (portNow s).rst_i = false → s.st = .done → s.avgMode = true → s.remain ≠ 1#16 →
      StepCase s { beginCycle s with
        acc := accumulate s.acc s.sample, remain := s.remain - 1#16, st := .waitSlot }
  | doneLast : (portNow s).rst_i = false → s.st = .done → s.avgMode = true → s.remain = 1#16 →
      StepCase s { beginCycle s with
        acc := accumulate s.acc s.sample, remain := s.remain - 1#16, st := .div }
  | divide : (portNow s).rst_i = false → s.st = .div →
      StepCase s (respond .ok (average s.acc s.count) { beginCycle s with st := .idle })
  | pdLoEnd : (portNow s).rst_i = false → s.st = .pdLo → s.holdCnt = 0#_ →
      StepCase s (respond .ok 0#32 { beginCycle s with sck := true, pwr := true, st := .idle })

theorem step_cases_idle {s t : State} (h : (portNow s).rst_i = false) (hst : s.st = .idle)
    (hs : step s = .next t) : StepCase s t := by
  rw [step_of_idle h hst, idleRule] at hs
  split at hs
  · rename_i hv
    split at hs
    · rename_i i hd
      cases i with
      | rdraw =>
        simp only [exec, execRdraw] at hs
        split at hs
        · cases hs
        · cases hs; exact .rdraw h hst hv hd (by simpa using ‹¬(beginCycle s).pwr = true›)
      | rdavg c =>
        simp only [exec, execRdavg] at hs
        split at hs
        · rename_i hc; subst hc; cases hs; exact .rdavgZero h hst hv hd
        · split at hs
          · cases hs
          · cases hs; exact .rdavg c h hst hv hd ‹_› (by simpa using ‹¬(beginCycle s).pwr = true›)
      | setcg v => cases hs; exact .setcg v h hst hv hd
      | getcg => cases hs; exact .getcg h hst hv hd
      | pwrdn => cases hs; exact .pwrdn h hst hv hd
      | pwrup => cases hs; exact .pwrup h hst hv hd
    · rename_i e hd; cases hs; exact .illegal e h hst hv hd
  · rename_i hv; cases hs; exact .quiet h hst (by simpa using hv)

theorem step_cases_frame {s t : State} (h : (portNow s).rst_i = false)
    (hst : s.st ∈ [SeqState.bitHi, .bitLo, .pulseHi, .pulseLo, .pdLo]) (hs : step s = .next t) :
    StepCase s t := by
  by_cases hc : s.holdCnt = 0#_
  · simp only [List.mem_cons, List.not_mem_nil, or_false] at hst
    rcases hst with hst | hst | hst | hst | hst
    · rw [step_of_bitHi h hst, bitHiRule, duringPhase_ending _ (beginCycle s) hc] at hs
      cases hs; exact .bitHiEnd h hst hc
    · rw [step_of_bitLo h hst, bitLoRule, duringPhase_ending _ (beginCycle s) hc] at hs
      simp only [Sys2Proof.Machine.bitLoEnd] at hs
      split at hs
      · cases hs; exact .nextBit h hst hc ‹_›
      · split at hs
        · cases hs; exact .lastBitNoPulse h hst hc (by simpa using ‹¬(beginCycle s).bitCnt ≠ 23#5›) ‹_›
        · cases hs; exact .lastBit h hst hc (by simpa using ‹¬(beginCycle s).bitCnt ≠ 23#5›) ‹_›
    · rw [step_of_pulseHi h hst, pulseHiRule, duringPhase_ending _ (beginCycle s) hc] at hs
      cases hs; exact .pulseHiEnd h hst hc
    · rw [step_of_pulseLo h hst, pulseLoRule, duringPhase_ending _ (beginCycle s) hc] at hs
      simp only [Sys2Proof.Machine.pulseLoEnd] at hs
      split at hs
      · cases hs; exact .nextPulse h hst hc ‹_›
      · cases hs; exact .lastPulse h hst hc (by simpa using ‹¬(beginCycle s).pulseCnt ≠ 0#2›)
    · rw [step_of_pdLo h hst, pdLoRule, duringPhase_ending _ (beginCycle s) hc] at hs
      cases hs; exact .pdLoEnd h hst hc
  · have ht : t = { beginCycle s with holdCnt := s.holdCnt - 1#_ } := by
      simp only [List.mem_cons, List.not_mem_nil, or_false] at hst
      rcases hst with hst | hst | hst | hst | hst
      · rw [step_of_bitHi h hst, bitHiRule, duringPhase_counting _ (beginCycle s) hc] at hs
        cases hs; rfl
      · rw [step_of_bitLo h hst, bitLoRule, duringPhase_counting _ (beginCycle s) hc] at hs
        cases hs; rfl
      · rw [step_of_pulseHi h hst, pulseHiRule, duringPhase_counting _ (beginCycle s) hc] at hs
        cases hs; rfl
      · rw [step_of_pulseLo h hst, pulseLoRule, duringPhase_counting _ (beginCycle s) hc] at hs
        cases hs; rfl
      · rw [step_of_pdLo h hst, pdLoRule, duringPhase_counting _ (beginCycle s) hc] at hs
        cases hs; rfl
    rw [ht]
    exact .counting h hst hc

/-- A step that answers a next state is one of the cases. -/
theorem step_cases {s t : State} (hs : step s = .next t) : StepCase s t := by
  by_cases hr : (portNow s).rst_i = true
  · rw [step_of_reset hr] at hs
    cases hs; exact .reset hr
  · have h : (portNow s).rst_i = false := by simpa using hr
    cases hst : s.st with
    | idle => exact step_cases_idle h hst hs
    | waitSlot =>
      rw [step_of_waitSlot h hst, waitSlotRule] at hs
      split at hs
      · cases hs; exact .slotSeen h hst ‹_›
      · cases hs; exact .slotWait h hst (by simpa using ‹¬(portNow s).slot_i = true›)
    | waitRdy =>
      rw [step_of_waitRdy h hst, waitRdyRule] at hs
      split at hs
      · cases hs; exact .readyWait h hst ‹_›
      · cases hs; exact .readySeen h hst (by simpa using ‹¬(portNow s).dout_i = true›)
    | bitHi => exact step_cases_frame h (by simp [hst]) hs
    | bitLo => exact step_cases_frame h (by simp [hst]) hs
    | pulseHi => exact step_cases_frame h (by simp [hst]) hs
    | pulseLo => exact step_cases_frame h (by simp [hst]) hs
    | done =>
      rw [step_of_done h hst, doneRule] at hs
      split at hs
      · rename_i ha
        simp only [doneAverageRule] at hs
        by_cases h1 : s.remain = 1#16
        · cases hs
          have := StepCase.doneLast h hst ha h1
          simpa [h1] using this
        · cases hs
          have := StepCase.doneMore h hst ha h1
          simpa [h1] using this
      · cases hs; exact .doneRaw h hst (by simpa using ‹¬(beginCycle s).avgMode = true›)
    | div => rw [step_of_div h hst] at hs; cases hs; exact .divide h hst
    | pdLo => exact step_cases_frame h (by simp [hst]) hs

end Sys2Proof.Machine
end

