-- ==== Sys2Proof/Tests/Slice0.lean ====
section
/-!
SUPPORT. The model's own tests, and for every statement with hypotheses a witness that meets them. Expected values come from
the spec: `30_encoding.md` R84 to R94 and the vectors V<n> of `95_test_vectors.md`, named at each test.
-/

namespace Sys2Proof.Tests

open Sys2Proof Sys2Proof.Machine

/-! ### Helpers -/

/-- Inputs that offer the word `w`. -/
def offer (w : BitVec 32) : PortInputs := ⟨false, true, w, true, false⟩

/-- Inputs with no command, at the given levels of the data line and the slot. -/
def quiet (dout slot : Bool) : PortInputs := ⟨false, false, 0#32, dout, slot⟩

/-- The reset state with these inputs in its first cycle. -/
def idleWith (p : PortInputs) : State := { State.reset with inputs := [p] }

/-- The reset state in another sequencer state, with these inputs in its first cycle. -/
def inState (st : SeqState) (p : PortInputs) : State := { State.reset with st := st, inputs := [p] }

/-- `f` holds of the next state an outcome answers. -/
def answers (o : Host.Outcome State Fault Refusal) (f : State → Bool) : Bool :=
  match o with
  | .next t => f t
  | .fault _ => false
  | .refused _ => false

/-- The response registers hold this response. -/
def responded (status : BitVec 3) (data : BitVec 32) (t : State) : Bool :=
  t.rspv && t.rstat == status && t.rdata == data

/-- The decoder gives this command. -/
def decodesTo (w : BitVec 32) (i : Instr) : Bool := match decode w with | .ok j => j == i | .error _ => false

/-- The decoder refuses the word for this reason. -/
def refusedFor (w : BitVec 32) (e : Illegal) : Bool := match decode w with | .ok _ => false | .error e' => e' == e

/-! ### Well-formedness: one ill-formed word for each check, and the well-formed neighbours -/

theorem test_wf_opcode_zero_refused : CW32.wellFormed ⟨0#4, 0#12, 0#16⟩ = false := by decide
theorem test_wf_opcode_seven_refused : CW32.wellFormed ⟨7#4, 0#12, 0#16⟩ = false := by decide
theorem test_wf_reserved_field_refused : CW32.wellFormed ⟨2#4, 1#12, 1#16⟩ = false := by decide
theorem test_wf_operand_refused : CW32.wellFormed ⟨1#4, 0#12, 1#16⟩ = false := by decide
theorem test_wf_selector_refused : CW32.wellFormed ⟨3#4, 0#12, 4#16⟩ = false := by decide
theorem test_wf_selector_accepted : CW32.wellFormed ⟨3#4, 0#12, 3#16⟩ = true := by decide
theorem test_wf_count_accepted : CW32.wellFormed ⟨2#4, 0#12, 0xFFFF#16⟩ = true := by decide

/-! ### Decoding: words written out from R84 and R86 (`oooo`, then `RSV`, then `ARG`) -/

theorem test_decode_rdraw : decodesTo 0b0001_000000000000_0000000000000000#32 .rdraw = true := by decide
theorem test_decode_rdavg : decodesTo 0b0010_000000000000_0000000000001010#32 (.rdavg 10#16) = true := by decide
theorem test_decode_setcg : decodesTo 0b0011_000000000000_0000000000000010#32 (.setcg 2#2) = true := by decide
theorem test_decode_getcg : decodesTo 0b0100_000000000000_0000000000000000#32 .getcg = true := by decide
theorem test_decode_pwrdn : decodesTo 0b0101_000000000000_0000000000000000#32 .pwrdn = true := by decide
theorem test_decode_pwrup : decodesTo 0b0110_000000000000_0000000000000000#32 .pwrup = true := by decide
/-- V35, V37, V39. -/
theorem test_decode_reserved_opcodes :
    (refusedFor 0x00000000#32 .reservedOpcode && refusedFor 0x70000000#32 .reservedOpcode
      && refusedFor 0xFFFFFFFF#32 .reservedField) = true := by decide
/-- V40a, V40c, V40d, V40e. -/
theorem test_decode_bad_fields :
    (refusedFor 0x10000001#32 .operandNotZero && refusedFor 0x28000000#32 .reservedField
      && refusedFor 0x30008001#32 .selectorTooWide && refusedFor 0x50008000#32 .operandNotZero) = true := by decide
/-- R94. -/
theorem test_encode_examples :
    encode (.rdavg 10#16) = 0x2000000A#32 ∧ encode (.setcg selB32) = 0x30000002#32 := by decide
theorem test_decode_table_word :
    decodeTableWord 32 0x20000000 = some (.rdavg 0#16) ∧ decodeTableWord 32 0x30000000 = some (.setcg 0#2)
      ∧ decodeTableWord 32 0x70000000 = none := by decide

/-! ### One step of each command, from the vectors of section 2.3 -/

/-- V25. -/
theorem test_step_rdraw :
    answers (step (idleWith (offer 0x10000000#32)))
      (fun t => t.st == .waitRdy && !t.rspv && !t.sck && !t.avgMode) = true := by decide
/-- V27. -/
theorem test_step_rdavg :
    answers (step (idleWith (offer 0x2000FFFF#32)))
      (fun t => t.st == .waitSlot && t.count == 65535#16 && t.remain == 65535#16 && t.acc == 0#40) = true := by decide
/-- V36. -/
theorem test_step_rdavg_zero :
    answers (step (idleWith (offer 0x20000000#32))) (fun t => responded 1#3 0#32 t && t.st == .idle) = true := by decide
/-- V31. -/
theorem test_step_setcg :
    answers (step (idleWith (offer 0x30000003#32))) (fun t => responded 0#3 3#32 t && t.sel == 3#2) = true := by decide
/-- V32. -/
theorem test_step_getcg :
    answers (step (idleWith (offer 0x40000000#32))) (fun t => responded 0#3 1#32 t && t.sel == 1#2) = true := by decide
/-- V33. -/
theorem test_step_pwrdn :
    answers (step (idleWith (offer 0x50000000#32))) (fun t => t.st == .pdLo && !t.sck && !t.rspv && !t.pwr) = true := by
  decide
/-- V34, from PoweredDown with the line high (P3, cycle 40). -/
theorem test_step_pwrup :
    answers (step { idleWith (offer 0x60000000#32) with pwr := true, sck := true })
      (fun t => responded 0#3 0#32 t && !t.pwr && !t.sck) = true := by decide
/-- V40d. -/
theorem test_step_illegal :
    answers (step (idleWith (offer 0x30000004#32))) (fun t => responded 2#3 0#32 t && t.sel == 1#2) = true := by decide
/-- The word placed by `withFetchWord` is the one the next step accepts. -/
theorem test_with_fetch_word :
    answers (step (State.reset.withFetchWord 32 0x30000003)) (fun t => responded 0#3 3#32 t && t.sel == 3#2) = true := by
  decide

/-! ### One step of the sequencer, from V45 -/

/-- V45, cycles 3 and 4. -/
theorem test_step_ready :
    answers (step (inState .waitRdy (quiet false false))) (fun t => t.st == .bitHi && t.sck && t.bitCnt == 0#5) = true := by
  decide
/-- V45, cycles 50 and 51. -/
theorem test_step_sample_bit :
    answers (step { inState .bitHi (quiet true false) with shift := 0x7F8000#24, bitCnt := 23#5, sck := true })
      (fun t => t.st == .bitLo && t.shift == 0xFF0001#24 && !t.sck && t.bitCnt == 23#5) = true := by decide
/-- V45, cycles 51 and 52. -/
theorem test_step_last_bit :
    answers (step { inState .bitLo (quiet true false) with shift := 0xFF0001#24, bitCnt := 23#5 })
      (fun t => t.st == .pulseHi && t.sample == 0xFFFF0001#32 && t.sck && t.pulseCnt == 0#2) = true := by decide
/-- V45, cycles 54 and 55. -/
theorem test_step_done :
    answers (step { inState .done (quiet true false) with sample := 0xFFFF0001#32 })
      (fun t => t.st == .idle && responded 0#3 0xFFFF0001#32 t) = true := by decide
/-- P5, cycle 166. -/
theorem test_step_accumulate :
    answers (step { inState .done (quiet true true) with
        avgMode := true, acc := 0xFFFFFFFFEB#40, sample := 0xFFFFFFF5#32, count := 3#16, remain := 1#16 })
      (fun t => t.st == .div && t.acc == 0xFFFFFFFFE0#40 && t.remain == 0#16) = true := by decide
/-- P5, cycle 167: toward zero, not to −11. -/
theorem test_step_divide :
    answers (step { inState .div (quiet true true) with avgMode := true, acc := 0xFFFFFFFFE0#40, count := 3#16 })
      (fun t => t.st == .idle && responded 0#3 0xFFFFFFF6#32 t) = true := by decide

/-! ### Arithmetic -/

/-- V10. -/
theorem test_sext_byte_order : sext32 0xABCDEF#24 = 0xFFABCDEF#32 := by decide
/-- V1. -/
theorem test_sext_top_byte : (sext32 0xFF0001#24).toInt = -65535 := by decide
/-- V14. -/
theorem test_average_toward_zero : average 0xFFFFFFFFF9#40 2#16 = 0xFFFFFFFD#32 := by decide
/-- V23. -/
theorem test_average_smallest : average 0x8000800000#40 0xFFFF#16 = 0xFF800000#32 := by decide

/-! ### Witnesses: encoding, ports, reset -/

theorem witness_EncodeInvertsDecode : decode 0x2000FFFF#32 = .ok (.rdavg 0xFFFF#16) := by rfl

theorem witness_DecodeFollowsOpcodeMap :
    ∃ r₁ r₂ : OpcodeRow, r₁ ∈ opcodeTable ∧ r₂ ∈ opcodeTable ∧
      r₁.covers 0x3000_0003#32 = true ∧ r₂.covers 0x3000_0003#32 = true :=
  ⟨⟨"SETCG", 0x30000000#32, 0xFFFFFFFC#32⟩, ⟨"SETCG", 0x30000000#32, 0xFFFFFFFC#32⟩, by decide⟩

/-- Each way to be illegal, at the ends of its range. -/
theorem witness_IllegalWordsAreTheReservedOnes_each :
    decode 0x0#32 = .error .reservedOpcode ∧ decode 0x70000000#32 = .error .reservedOpcode ∧
    decode 0xF0000000#32 = .error .reservedOpcode ∧ decode 0x20010000#32 = .error .reservedField ∧
    decode 0x1FFF0000#32 = .error .reservedField ∧ decode 0x10000001#32 = .error .operandNotZero ∧
    decode 0x4000FFFF#32 = .error .operandNotZero ∧ decode 0x50008000#32 = .error .operandNotZero ∧
    decode 0x60000100#32 = .error .operandNotZero ∧ decode 0x30000004#32 = .error .selectorTooWide := by
  refine ⟨?_, ?_, ?_, ?_, ?_, ?_, ?_, ?_, ?_, ?_⟩ <;> rfl

theorem witness_IllegalWordsAreTheReservedOnes :
    ∃ (s : State) (e : Illegal), (portNow s).rst_i = false ∧ s.st = .idle ∧ (portNow s).cmd_valid_i = true ∧
      decode (portNow s).cmd_word_i = .error e :=
  ⟨idleWith (offer 0x30000004#32), .selectorTooWide, rfl, rfl, rfl, rfl⟩

theorem witness_PulseCountIsTheSelectorValue :
    ∃ u v : BitVec 2, u ≠ selNone ∧ v ≠ selNone ∧ pulses u = pulses v := ⟨3#2, 3#2, by decide⟩

theorem witness_StepRunsTheDecodedCommand :
    ∃ (s : State) (i : Instr), (portNow s).rst_i = false ∧ s.st = .idle ∧ (portNow s).cmd_valid_i = true ∧
      decode (portNow s).cmd_word_i = .ok i :=
  ⟨idleWith (offer 0x30000002#32), .setcg 2#2, rfl, rfl, rfl, rfl⟩

theorem witness_IdleWithoutCommandChangesNothing :
    ∃ s : State, (portNow s).rst_i = false ∧ s.st = .idle ∧ (portNow s).cmd_valid_i = false :=
  ⟨idleWith (quiet true true), rfl, rfl, rfl⟩

theorem witness_PriorityOfConditions :
    (∃ s : State, (portNow s).rst_i = true) ∧ (∃ s : State, s.st ≠ .idle) ∧
    (∃ s : State, (portNow s).rst_i = false ∧ s.st = .idle ∧ (portNow s).cmd_valid_i = true ∧
      (portNow s).cmd_word_i.extractLsb' 28 4 = 2#4 ∧ (portNow s).cmd_word_i.extractLsb' 16 12 ≠ 0#12 ∧
      (portNow s).cmd_word_i.extractLsb' 0 16 = 0#16) ∧
    (∃ s : State, (portNow s).rst_i = false ∧ s.st = .idle ∧ (portNow s).cmd_valid_i = true ∧
      (portNow s).cmd_word_i = 0x20000000#32) ∧
    (∃ (s : State) (c : BitVec 16), c ≠ 0#16 ∧ s.pwr = true) :=
  ⟨⟨idleWith { quiet true true with rst_i := true }, rfl⟩, ⟨inState .div (quiet true true), by decide⟩,
   ⟨idleWith (offer 0x28000000#32), rfl, rfl, rfl, rfl, by decide, rfl⟩,
   ⟨idleWith (offer 0x20000000#32), rfl, rfl, rfl, rfl⟩, ⟨{ State.reset with pwr := true }, 1#16, by decide, rfl⟩⟩

theorem witness_DataLineIsReadInTwoPlacesOnly :
    (∃ s : State, s.st ≠ .waitRdy ∧ ¬(s.st = .bitHi ∧ s.holdCnt = 0#_)) ∧
    (∃ s : State, s.st = .bitHi ∧ s.st ≠ .waitRdy ∧ ¬(s.st = .bitHi ∧ s.holdCnt = 0#_)) :=
  ⟨⟨State.reset, by decide⟩, ⟨{ State.reset with st := .bitHi, holdCnt := 1#_ }, rfl, by decide,
    fun h => holdCount_one_ne_zero h.2⟩⟩

theorem witness_SlotInputIsReadInWaitSlotOnly : ∃ s : State, s.st ≠ .waitSlot := ⟨State.reset, by decide⟩

theorem witness_ResetLeadsToResetState : ∃ s : State, (portNow s).rst_i = true :=
  ⟨inState .pulseHi { quiet true true with rst_i := true }, rfl⟩

theorem witness_FaultIsLeftOnlyByReset :
    ∃ (ps : List PortInputs) (p : PortInputs), (∀ q ∈ ps, q.rst_i = false) ∧ p.rst_i = true :=
  ⟨[offer 0x60000000#32, quiet true true], { quiet true true with rst_i := true }, by decide⟩

/-! ### Witnesses: the commands -/

theorem witness_RawReadIsAccepted : ∃ s : State, s.pwr = false := ⟨State.reset, rfl⟩

theorem witness_AveragedReadIsAccepted :
    (∃ (s : State) (c : BitVec 16), 1 ≤ c.toNat ∧ s.pwr = false ∧ c = 1#16) ∧
    (∃ (s : State) (c : BitVec 16), 1 ≤ c.toNat ∧ s.pwr = false ∧ c = 0xFFFF#16) :=
  ⟨⟨State.reset, 1#16, by decide⟩, ⟨State.reset, 0xFFFF#16, by decide⟩⟩

theorem witness_ReadWhilePoweredDownFaults : ∃ (s : State) (c : BitVec 16), s.pwr = true ∧ c ≠ 0#16 :=
  ⟨{ State.reset with pwr := true, sck := true }, 1#16, by decide⟩

/-! ### Long runs: the ports of a state whose inputs are listed to a length that depends on `HOLD` -/

/-- `first`, then `second`, then `n` cycles of `rest`. -/
def longRun (st : SeqState) (first second rest : PortInputs) (n : Nat) : State :=
  { State.reset with st := st, inputs := first :: second :: List.replicate n rest }

theorem portAt_longRun_zero (st) (a b c : PortInputs) (n : Nat) : portAt (longRun st a b c n) 0 = a := rfl

theorem portAt_longRun_one (st) (a b c : PortInputs) (n : Nat) : portAt (longRun st a b c n) 1 = b := rfl

theorem portAt_longRun_rest (st) (a b c : PortInputs) (n k : Nat) (h2 : 2 ≤ k) (hk : k < n + 2) :
    portAt (longRun st a b c n) k = c := by
  obtain ⟨j, rfl⟩ : ∃ j, k = j + 2 := ⟨k - 2, by omega⟩
  simp [longRun, portAt, show j < n by omega]

theorem noReset_longRun (st) (a b c : PortInputs) (n m : Nat) (ha : a.rst_i = false) (hb : b.rst_i = false)
    (hc : c.rst_i = false) (hm : m ≤ n + 2) : NoReset (longRun st a b c n) m := by
  intro k hk
  rcases k with _ | _ | k
  · rw [portAt_longRun_zero, ha]
  · rw [show 0 + 1 = 1 from rfl, portAt_longRun_one, hb]
  · rw [portAt_longRun_rest _ _ _ _ _ _ (by omega) (by omega), hc]

theorem witness_PowerDownSequence :
    ∃ s : State, s.st = .idle ∧ (portNow s).cmd_valid_i = true ∧ decode (portNow s).cmd_word_i = .ok .pwrdn ∧
      NoReset s (Config.hold + 1) :=
  ⟨longRun .idle (offer 0x50000000#32) (quiet true false) (quiet true false) Config.hold, rfl, rfl, rfl,
    noReset_longRun _ _ _ _ _ _ rfl rfl rfl (by omega)⟩

/-! ### Witnesses: the sequencer states, one for each clause -/

theorem witness_WaitSlotState (level : Bool) :
    ∃ s : State, (portNow s).rst_i = false ∧ s.st = .waitSlot ∧ (portNow s).slot_i = level :=
  ⟨inState .waitSlot (quiet true level), rfl, rfl, rfl⟩

theorem witness_WaitReadyState (level : Bool) :
    ∃ s : State, (portNow s).rst_i = false ∧ s.st = .waitRdy ∧ (portNow s).dout_i = level :=
  ⟨inState .waitRdy (quiet level true), rfl, rfl, rfl⟩

theorem witness_DataPulseHighState :
    (∃ s : State, (portNow s).rst_i = false ∧ s.st = .bitHi ∧ s.holdCnt ≠ 0#_) ∧
    (∃ s : State, (portNow s).rst_i = false ∧ s.st = .bitHi ∧ s.holdCnt = 0#_) :=
  ⟨⟨{ inState .bitHi (quiet true true) with holdCnt := 1#_ }, rfl, rfl, holdCount_one_ne_zero⟩,
   ⟨inState .bitHi (quiet true true), by decide⟩⟩

theorem witness_DataPulseLowState :
    (∃ s : State, (portNow s).rst_i = false ∧ s.st = .bitLo ∧ s.holdCnt ≠ 0#_) ∧
    (∃ s : State, (portNow s).rst_i = false ∧ s.st = .bitLo ∧ s.holdCnt = 0#_ ∧ s.bitCnt ≠ 23#5) ∧
    (∃ s : State, (portNow s).rst_i = false ∧ s.st = .bitLo ∧ s.holdCnt = 0#_ ∧ s.bitCnt = 23#5 ∧ s.sel = 0#2) ∧
    (∃ s : State, (portNow s).rst_i = false ∧ s.st = .bitLo ∧ s.holdCnt = 0#_ ∧ s.bitCnt = 23#5 ∧ s.sel ≠ 0#2) :=
  ⟨⟨{ inState .bitLo (quiet true true) with holdCnt := 1#_ }, rfl, rfl, holdCount_one_ne_zero⟩,
   ⟨{ inState .bitLo (quiet true true) with bitCnt := 22#5 }, by decide⟩,
   ⟨{ inState .bitLo (quiet true true) with bitCnt := 23#5, sel := 0#2 }, by decide⟩,
   ⟨{ inState .bitLo (quiet true true) with bitCnt := 23#5 }, by decide⟩⟩

theorem witness_SelectorPulseStates :
    (∃ s : State, (portNow s).rst_i = false ∧ (s.st = .pulseHi ∨ s.st = .pulseLo) ∧ s.holdCnt ≠ 0#_) ∧
    (∃ s : State, (portNow s).rst_i = false ∧ s.st = .pulseHi ∧ s.holdCnt = 0#_) ∧
    (∃ s : State, (portNow s).rst_i = false ∧ s.st = .pulseLo ∧ s.holdCnt = 0#_ ∧ s.pulseCnt ≠ 0#2) ∧
    (∃ s : State, (portNow s).rst_i = false ∧ s.st = .pulseLo ∧ s.holdCnt = 0#_ ∧ s.pulseCnt = 0#2) :=
  ⟨⟨{ inState .pulseLo (quiet true true) with holdCnt := 1#_ }, rfl, .inr rfl, holdCount_one_ne_zero⟩,
   ⟨inState .pulseHi (quiet true true), by decide⟩,
   ⟨{ inState .pulseLo (quiet true true) with pulseCnt := 1#2 }, by decide⟩,
   ⟨inState .pulseLo (quiet true true), by decide⟩⟩

theorem witness_RawReadResponds : ∃ s : State, (portNow s).rst_i = false ∧ s.st = .done ∧ s.avgMode = false :=
  ⟨inState .done (quiet true true), by decide⟩

theorem witness_SampleIsAccumulated :
    (∃ s : State, (portNow s).rst_i = false ∧ s.st = .done ∧ s.avgMode = true ∧ s.remain = 1#16) ∧
    (∃ s : State, (portNow s).rst_i = false ∧ s.st = .done ∧ s.avgMode = true ∧ s.remain ≠ 1#16) :=
  ⟨⟨{ inState .done (quiet true true) with avgMode := true, remain := 1#16 }, by decide⟩,
   ⟨{ inState .done (quiet true true) with avgMode := true, remain := 2#16 }, by decide⟩⟩

theorem witness_AverageResponds : ∃ s : State, (portNow s).rst_i = false ∧ s.st = .div ∧ s.count ≠ 0#16 :=
  ⟨{ inState .div (quiet true true) with count := 1#16 }, by decide⟩

theorem witness_PowerDownLowState :
    (∃ s : State, (portNow s).rst_i = false ∧ s.st = .pdLo ∧ s.holdCnt ≠ 0#_) ∧
    (∃ s : State, (portNow s).rst_i = false ∧ s.st = .pdLo ∧ s.holdCnt = 0#_) :=
  ⟨⟨{ inState .pdLo (quiet true true) with holdCnt := 1#_ }, rfl, rfl, holdCount_one_ne_zero⟩,
   ⟨inState .pdLo (quiet true true), by decide⟩⟩

/-- For each of the five timed states. -/
theorem witness_PhaseLastsHoldCycles (st : SeqState) (h : st ∈ [SeqState.bitHi, .bitLo, .pulseHi, .pulseLo, .pdLo]) :
    ∃ s : State, s.st ∈ [SeqState.bitHi, .bitLo, .pulseHi, .pulseLo, .pdLo] ∧ s.holdCnt = holdReload ∧
      NoReset s Config.hold :=
  ⟨{ longRun st (quiet true true) (quiet true true) (quiet true true) Config.hold with holdCnt := holdReload },
    h, rfl, noReset_longRun st _ _ _ _ _ rfl rfl rfl (by omega)⟩

theorem witness_PhaseLastsHoldCycles_pulseLo :
    ∃ s : State, s.st ∈ [SeqState.bitHi, .bitLo, .pulseHi, .pulseLo, .pdLo] ∧ s.holdCnt = holdReload ∧
      NoReset s Config.hold := witness_PhaseLastsHoldCycles .pulseLo (by decide)

/-! ### Witnesses: whole-machine rules -/

/-- One state for each row of the transition table, in its order; `counting` is a value of `HOLDCNT` that is not 0. -/
def rowStates (counting : HoldCount) : List State :=
  [ idleWith (offer 0x40000000#32), idleWith (offer 0x10000000#32), idleWith (offer 0x20000001#32),
    idleWith (offer 0x50000000#32),
    inState .waitSlot (quiet true false), inState .waitSlot (quiet true true),
    inState .waitRdy (quiet true false), inState .waitRdy (quiet false false),
    { inState .bitHi (quiet true false) with holdCnt := counting }, inState .bitHi (quiet true false),
    { inState .bitLo (quiet true false) with holdCnt := counting }, inState .bitLo (quiet true false),
    { inState .bitLo (quiet true false) with bitCnt := 23#5 },
    { inState .bitLo (quiet true false) with bitCnt := 23#5, sel := 0#2 },
    { inState .pulseHi (quiet true false) with holdCnt := counting }, inState .pulseHi (quiet true false),
    { inState .pulseLo (quiet true false) with holdCnt := counting },
    { inState .pulseLo (quiet true false) with pulseCnt := 1#2 }, inState .pulseLo (quiet true false),
    inState .done (quiet true false), { inState .done (quiet true false) with avgMode := true, remain := 2#16 },
    { inState .done (quiet true false) with avgMode := true, remain := 1#16 },
    inState .div (quiet true false),
    { inState .pdLo (quiet true false) with holdCnt := counting }, inState .pdLo (quiet true false) ]

theorem witness_NextStateTableIsExact :
    List.Forall₂ (fun (row : TransitionRow) s =>
      (portNow s).rst_i = false ∧ row.source = s.st ∧ row.condition (portNow s) s = true)
      transitionTable (rowStates 1#_) := by
  have h := holdCount_one_ne_zero
  refine .cons (by decide) (.cons (by decide) (.cons (by decide) (.cons (by decide) (.cons (by decide)
    (.cons (by decide) (.cons (by decide) (.cons (by decide) ?_)))))))
  refine .cons ⟨rfl, rfl, bne_iff_ne.mpr h⟩ (.cons (by decide) (.cons ⟨rfl, rfl, bne_iff_ne.mpr h⟩ (.cons (by decide)
    (.cons (by decide) (.cons (by decide) (.cons ⟨rfl, rfl, bne_iff_ne.mpr h⟩ (.cons (by decide)
    (.cons ⟨rfl, rfl, bne_iff_ne.mpr h⟩ (.cons (by decide) (.cons (by decide) ?_))))))))))
  exact .cons (by decide) (.cons (by decide) (.cons (by decide) (.cons (by decide)
    (.cons ⟨rfl, rfl, bne_iff_ne.mpr h⟩ (.cons (by decide) .nil)))))

theorem witness_NextStateTableIsExact_step :
    (∃ s t : State, (portNow s).rst_i = false ∧ step s = .next t) ∧ (∃ s : State, (portNow s).rst_i = true) :=
  ⟨⟨idleWith (quiet true true), _, rfl, rfl⟩, ⟨idleWith { quiet true true with rst_i := true }, rfl⟩⟩

theorem witness_OnlySetcgAndResetWriteTheSelector :
    (∃ s t : State, step s = .next t ∧ t.sel ≠ s.sel ∧ (portNow s).rst_i = false) ∧
    (∃ s t : State, step s = .next t ∧ t.sel ≠ s.sel ∧ (portNow s).rst_i = true) :=
  ⟨⟨idleWith (offer 0x30000002#32), _, rfl, by decide, rfl⟩,
   ⟨{ idleWith { quiet true true with rst_i := true } with sel := 2#2 }, _, rfl, by decide, rfl⟩⟩

theorem witness_OnlyPowerCommandsAndResetWriteThePowerState :
    (∃ s t : State, step s = .next t ∧ s.pwr = false ∧ t.pwr = true) ∧
    (∃ s t : State, step s = .next t ∧ s.pwr = true ∧ t.pwr = false ∧ (portNow s).rst_i = false) ∧
    (∃ s t : State, step s = .next t ∧ s.pwr = true ∧ t.pwr = false ∧ (portNow s).rst_i = true) :=
  ⟨⟨inState .pdLo (quiet true true), _, rfl, rfl, rfl⟩,
   ⟨{ idleWith (offer 0x60000000#32) with pwr := true }, _, rfl, rfl, rfl, rfl⟩,
   ⟨{ idleWith { quiet true true with rst_i := true } with pwr := true }, _, rfl, rfl, rfl, rfl⟩⟩

theorem witness_ResponseRegistersChangeOnlyByAResponse :
    (∃ s t : State, (portNow s).rst_i = false ∧ step s = .next t ∧ t.rspv = true) ∧
    (∃ s t : State, (portNow s).rst_i = false ∧ step s = .next t ∧ t.rspv = false) :=
  ⟨⟨idleWith (offer 0x40000000#32), _, rfl, rfl, rfl⟩, ⟨idleWith (quiet true true), _, rfl, rfl, rfl⟩⟩

/-- Both failure statuses. -/
theorem witness_FailureChangesOnlyTheResponse :
    (∃ s t : State, step s = .next t ∧ t.rspv = true ∧ t.rstat ≠ 0#3 ∧ t.rstat = 1#3) ∧
    (∃ s t : State, step s = .next t ∧ t.rspv = true ∧ t.rstat ≠ 0#3 ∧ t.rstat = 2#3) :=
  ⟨⟨idleWith (offer 0x20000000#32), _, rfl, rfl, by decide, rfl⟩, ⟨idleWith (offer 0#32), _, rfl, rfl, by decide, rfl⟩⟩

/-! ### Witnesses: invariants and arithmetic -/

/-- Averaging, the last of three samples just read (P5, cycle 166). -/
def lastOfThree : State :=
  { inState .done (quiet true true) with
    sel := 2#2, avgMode := true, acc := 0xFFFFFFFFEB#40, sample := 0xFFFFFFF5#32, count := 3#16, remain := 1#16 }

theorem inv_lastOfThree : Inv lastOfThree where
  clockLine := by decide
  holdCnt := Nat.zero_le _
  bitCnt := by decide
  pulseCnt := by decide
  averaging := fun _ _ => by unfold accWithin; decide
  dividing := fun h => absurd h (by decide)
  sample := by decide
  readsInNormal := fun _ => by decide
  status := by decide

/-- The division of P5, cycle 167. -/
def dividingThree : State :=
  { inState .div (quiet true true) with
    sel := 2#2, avgMode := true, acc := 0xFFFFFFFFE0#40, sample := 0xFFFFFFF5#32, count := 3#16 }

theorem inv_dividingThree : Inv dividingThree where
  clockLine := by decide
  holdCnt := Nat.zero_le _
  bitCnt := by decide
  pulseCnt := by decide
  averaging := fun h => absurd h (by decide)
  dividing := fun _ => by unfold accWithin; decide
  sample := by decide
  readsInNormal := fun _ => by decide
  status := by decide

theorem witness_StepKeepsTheInvariant : ∃ s t : State, Inv s ∧ step s = .next t :=
  ⟨lastOfThree, _, inv_lastOfThree, rfl⟩

/-- The bounds of the width's hypotheses, and the two clauses at `HOLD` = 1 and 3 (R30's formula gives 1 and 2 bits). -/
theorem witness_HoldCounterFitsItsWidth :
    (∃ hold width : Nat, 1 ≤ hold ∧ 1 ≤ width ∧ hold - 1 < 2 ^ width ∧ hold = 1) ∧
    Config.holdCntWidth 1 = 1 ∧ Config.holdCntWidth 2 = 1 ∧ Config.holdCntWidth 3 = 2 ∧ Config.holdCntWidth 4 = 2 ∧
    Config.holdCntWidth 5 = 3 := by
  refine ⟨⟨1, 1, by decide⟩, ?_⟩
  decide

/-- The samples of P5 before cycle 166, and before cycle 167. -/
theorem sumInv_lastOfThree : SumInv [-10, -11] lastOfThree where
  inv := inv_lastOfThree
  range := by decide
  averaging := fun _ _ => by decide
  dividing := fun h => absurd h (by decide)

theorem sumInv_dividingThree : SumInv [-10, -11, -11] dividingThree where
  inv := inv_dividingThree
  range := by decide
  averaging := fun h => absurd h (by decide)
  dividing := fun _ => by decide

theorem witness_StepKeepsTheSumOfTheSamples :
    ∃ (taken : List Int) (s t : State), SumInv taken s ∧ step s = .next t ∧ takenAfter s taken = [-10, -11, -11] :=
  ⟨[-10, -11], lastOfThree, _, sumInv_lastOfThree, rfl, by decide⟩

theorem witness_AccumulationIsExact :
    ∃ s : State, Inv s ∧ (portNow s).rst_i = false ∧ s.st = .done ∧ s.avgMode = true :=
  ⟨lastOfThree, inv_lastOfThree, rfl, rfl, rfl⟩

theorem witness_AverageIsInTheRangeOfASample : ∃ s : State, Inv s ∧ (portNow s).rst_i = false ∧ s.st = .div :=
  ⟨dividingThree, inv_dividingThree, rfl, rfl⟩

/-- Two idle states that differ in all nine unobservable elements. -/
theorem witness_UnobservableElementsNeverReachAnOutput :
    ∃ s t : State, s ≠ t ∧ s.st = .idle ∧ t.st = .idle ∧ s.sck = t.sck ∧ s.pwr = t.pwr ∧ s.sel = t.sel ∧
      s.rspv = t.rspv ∧ s.rstat = t.rstat ∧ s.rdata = t.rdata ∧ s.inputs = t.inputs ∧ s.cycle = t.cycle :=
  ⟨State.reset, { State.reset with
      shift := 1#24, bitCnt := 1#5, pulseCnt := 1#2, holdCnt := 1#_, sample := 1#32, acc := 1#40, count := 1#16,
      remain := 1#16, avgMode := true },
    fun h => absurd (congrArg State.shift h) (by decide), rfl, rfl, rfl, rfl, rfl, rfl, rfl, rfl, rfl, rfl⟩

theorem witness_DivisionTruncatesTowardZero :
    (∃ (a : Int) (b : Nat), 1 ≤ b ∧ 0 ≤ a) ∧ (∃ (a : Int) (b : Nat), 1 ≤ b ∧ a < 0) :=
  ⟨⟨0, 1, by decide⟩, ⟨-7, 2, by decide⟩⟩

theorem witness_AverageOfAConstantIsTheConstant :
    (∃ k : BitVec 16, 1 ≤ k.toNat ∧ k = 1#16) ∧ (∃ k : BitVec 16, 1 ≤ k.toNat ∧ k = 0xFFFF#16) :=
  ⟨⟨1#16, by decide⟩, ⟨0xFFFF#16, by decide⟩⟩

/-! ### Witnesses: whole commands -/

/-- `RDRAW` offered, the device ready in the next cycle, and the data line high ever after. -/
def readingOnes : State :=
  longRun .idle (offer 0x10000000#32) (quiet false false) (quiet true false) (Config.tConvCycles + 3 + frameCycles 1#2)

theorem firstReady_readingOnes : FirstReady readingOnes 1 1 := ⟨le_refl 1, fun _ h1 h2 => by omega, rfl⟩

theorem two_mul_succ_le (k h : Nat) (hk : k < 24) : (2 * k + 1) * h ≤ 2 * 25 * h :=
  Nat.mul_le_mul_right h (by omega)

theorem carriesWord_readingOnes : CarriesWord readingOnes 1 0xFFFFFF#24 := by
  intro k hk
  have h1 : 0 < (2 * k + 1) * Config.hold := Nat.mul_pos (by omega) hold_pos
  have h2 := two_mul_succ_le k Config.hold hk
  have h3 : frameCycles 1#2 = 2 * 25 * Config.hold := rfl
  rw [readingOnes, portAt_longRun_rest _ _ _ _ _ _ (by omega) (by omega)]
  exact (show ∀ k < 24, (quiet true false).dout_i = (0xFFFFFF#24).getLsbD (23 - k) by decide) k hk

theorem witness_RawReadReturnsTheWord :
    ∃ (s : State) (r : Nat) (w : BitVec 24), s.st = .idle ∧ s.pwr = false ∧ s.sck = false ∧
      (portNow s).cmd_valid_i = true ∧ decode (portNow s).cmd_word_i = .ok .rdraw ∧
      NoReset s (r + 2 + frameCycles s.sel) ∧ FirstReady s 1 r ∧ CarriesWord s r w :=
  ⟨readingOnes, 1, 0xFFFFFF#24, rfl, rfl, rfl, rfl, rfl,
    noReset_longRun _ _ _ _ _ _ rfl rfl rfl (by simp only [readingOnes, longRun, State.reset]; omega),
    firstReady_readingOnes, carriesWord_readingOnes⟩

/-- In both modes, with the clauses of `FrameHasTheWaveformOfTheTable` at the ends of their ranges. -/
theorem witness_FrameHasTheWaveformOfTheTable (avg : Bool) :
    (∃ (s : State) (r : Nat), s.st = .waitRdy ∧ s.avgMode = avg ∧
      NoReset s (r + 1 + frameCycles s.sel) ∧ FirstReady s 0 r ∧ 0 < pulses s.sel) ∧
    (∃ k h, k < 24 ∧ h < Config.hold ∧ k = 23 ∧ h = Config.hold - 1) :=
  ⟨⟨{ longRun .waitRdy (quiet false false) (quiet true false) (quiet true false) (frameCycles 1#2) with avgMode := avg },
    0, rfl, rfl,
    noReset_longRun .waitRdy _ _ _ _ _ rfl rfl rfl (by simp only [longRun, State.reset]; omega),
    ⟨le_refl _, fun _ _ h => by omega, rfl⟩, (by decide : 0 < pulses 1#2)⟩,
   ⟨23, Config.hold - 1, by omega, by have := hold_pos; omega, rfl, rfl⟩⟩

theorem witness_RawReadHasTheEventsOfTheTrace :
    ∃ (s : State) (r : Nat) (w : BitVec 24), s.st = .idle ∧ s.pwr = false ∧ s.sck = false ∧
      (portNow s).cmd_valid_i = true ∧ decode (portNow s).cmd_word_i = .ok .rdraw ∧
      NoReset s (r + 2 + frameCycles s.sel) ∧ FirstReady s 1 r ∧ CarriesWord s r w :=
  witness_RawReadReturnsTheWord

theorem witness_RawReadEndsWhenDataReadyIsFair :
    ∃ s : State, s.st = .idle ∧ s.pwr = false ∧
      (portNow s).cmd_valid_i = true ∧ decode (portNow s).cmd_word_i = .ok .rdraw ∧
      NoReset s (1 + Config.tConvCycles + 2 + frameCycles s.sel) ∧ DataReadyFair s 1 :=
  ⟨readingOnes, rfl, rfl, rfl, rfl,
    noReset_longRun _ _ _ _ _ _ rfl rfl rfl (by simp only [readingOnes, longRun, State.reset]; omega),
    1, firstReady_readingOnes, by omega⟩

/-- `RDAVG 2` with a slot in every cycle, a device always ready, and the data line low throughout: two samples of 0. -/
def averagingTwo : State :=
  longRun .idle (offer 0x20000002#32) (quiet false true) (quiet false true) (2 * (frameCycles 1#2 + 3) + 2)

/-- Where sample `j` starts to wait for its slot. -/
def startOf (j : Nat) : Nat := 1 + j * (frameCycles 1#2 + 3)

theorem portAt_averagingTwo (k : Nat) (h1 : 1 ≤ k) (hk : k < 2 * (frameCycles 1#2 + 3) + 4) :
    portAt averagingTwo k = quiet false true := by
  rcases k with _ | _ | k
  · omega
  · rfl
  · exact portAt_longRun_rest _ _ _ _ _ _ (by omega) (by omega)

theorem sample_averagingTwo (j : Nat) (hj : j < 2) :
    FirstSlot averagingTwo (startOf j) (startOf j) ∧ FirstReady averagingTwo (startOf j + 1) (startOf j + 1) ∧
      CarriesWord averagingTwo (startOf j + 1) 0#24 ∧ startOf (j + 1) = startOf j + 1 + 2 + frameCycles 1#2 := by
  have hs : startOf j + (frameCycles 1#2 + 3) ≤ 1 + 2 * (frameCycles 1#2 + 3) ∧ 1 ≤ startOf j := by
    unfold startOf
    have : j = 0 ∨ j = 1 := by omega
    rcases this with rfl | rfl <;> constructor <;> omega
  refine ⟨⟨le_refl _, fun _ h1 h2 => by omega, ?_⟩, ⟨le_refl _, fun _ h1 h2 => by omega, ?_⟩, ?_, ?_⟩
  · rw [portAt_averagingTwo _ (by omega) (by omega)]; rfl
  · rw [portAt_averagingTwo _ (by omega) (by omega)]; rfl
  · intro k hk
    have h2 := two_mul_succ_le k Config.hold hk
    have h3 : frameCycles 1#2 = 2 * 25 * Config.hold := rfl
    rw [portAt_averagingTwo _ (by omega) (by omega)]
    simp [quiet]
  · unfold startOf; ring

theorem noReset_averagingTwo : NoReset averagingTwo (startOf 2 + 1) :=
  noReset_longRun _ _ _ _ _ _ rfl rfl rfl (by unfold startOf; omega)

theorem witness_AveragedReadReturnsTheAverage :
    ∃ (s : State) (c : BitVec 16) (start slot ready : Nat → Nat) (w : Nat → BitVec 24),
      s.st = .idle ∧ s.pwr = false ∧
      (portNow s).cmd_valid_i = true ∧ decode (portNow s).cmd_word_i = .ok (.rdavg c) ∧ 1 ≤ c.toNat ∧
      start 0 = 1 ∧
      (∀ j < c.toNat, FirstSlot s (start j) (slot j) ∧ FirstReady s (slot j + 1) (ready j) ∧
        CarriesWord s (ready j) (w j) ∧ start (j + 1) = ready j + 2 + frameCycles s.sel) ∧
      NoReset s (start c.toNat + 1) :=
  ⟨averagingTwo, 2#16, startOf, startOf, fun j => startOf j + 1, fun _ => 0#24, rfl, rfl, rfl, rfl, by decide,
    by simp [startOf], fun j hj => sample_averagingTwo j hj,
    noReset_averagingTwo⟩

theorem witness_AveragedReadSumsTheSamplesSoFar :
    ∃ (s : State) (c : BitVec 16) (start slot ready : Nat → Nat) (w : Nat → BitVec 24),
      s.st = .idle ∧ s.pwr = false ∧ s.sck = false ∧
      (portNow s).cmd_valid_i = true ∧ decode (portNow s).cmd_word_i = .ok (.rdavg c) ∧ 1 ≤ c.toNat ∧
      start 0 = 1 ∧
      (∀ j < c.toNat, FirstSlot s (start j) (slot j) ∧ FirstReady s (slot j + 1) (ready j) ∧
        CarriesWord s (ready j) (w j) ∧ start (j + 1) = ready j + 2 + frameCycles s.sel) ∧
      NoReset s (start c.toNat) :=
  ⟨averagingTwo, 2#16, startOf, startOf, fun j => startOf j + 1, fun _ => 0#24, rfl, rfl, rfl, rfl, rfl, by decide,
    by simp [startOf], fun j hj => sample_averagingTwo j hj, fun k hk => noReset_averagingTwo k (Nat.lt_succ_of_lt hk)⟩

theorem witness_WaitsHaveNoBound (n : Nat) :
    (∃ s : State, NoReset s n ∧ s.st = .waitRdy ∧ (∀ k < n, (portAt s k).dout_i = true)) ∧
    (∃ s : State, NoReset s n ∧ s.st = .waitSlot ∧ (∀ k < n, (portAt s k).slot_i = false)) := by
  have hp : ∀ st k, k < n → portAt (longRun st (quiet true false) (quiet true false) (quiet true false) n) k =
      quiet true false := by
    intro st k hk
    rcases k with _ | _ | k
    · rfl
    · rfl
    · exact portAt_longRun_rest _ _ _ _ _ _ (by omega) (by omega)
  have hn : ∀ st, NoReset (longRun st (quiet true false) (quiet true false) (quiet true false) n) n :=
    fun st => noReset_longRun _ _ _ _ _ _ rfl rfl rfl (by omega)
  exact ⟨⟨_, hn .waitRdy, rfl, fun k hk => by rw [hp _ k hk]; rfl⟩,
    ⟨_, hn .waitSlot, rfl, fun k hk => by rw [hp _ k hk]; rfl⟩⟩

/-! ### Witnesses: timing and the device -/

/-- A phase of 2.5 µs and a `T_PD_MIN` of 3 µs, whatever `HOLD` is. -/
theorem timingContract_holds : Config.TimingContractAt (Config.hold * 400000) Config.hold 3000 := by
  have := hold_pos
  unfold Config.TimingContractAt
  omega

theorem witness_FrameLastsFourMicrosecondsAPulse :
    ∃ fClkHz tPdMinNs : Nat, Config.TimingContractAt fClkHz Config.hold tPdMinNs := ⟨_, _, timingContract_holds⟩

theorem witness_PhasesSuitTheDevice :
    ∃ fClkHz tPdMinNs : Nat, Config.TimingContractAt fClkHz Config.hold tPdMinNs := ⟨_, _, timingContract_holds⟩

/-- A block at reset but for its selector, and a device that shows the result `w`. -/
def closedReady (sel : BitVec 2) (w : BitVec 24) : ClosedState :=
  { block := { State.reset with sel := sel },
    adc := { settleCycles := Config.hold, pdCycles := Config.hold, phase := .ready w, mode := 1#2,
             sckWas := false, highFor := 0 } }

/-- With every selector, 0 among them. -/
theorem witness_ClosedRawReadReturnsTheResultAndProgramsTheMode (sel : BitVec 2) :
    ∃ (c : ClosedState) (w : BitVec 24) (p : PortInputs) (d : AdcDraw) (rest : List (PortInputs × AdcDraw)),
      c.block.sel = sel ∧ c.adc.settleCycles ≤ Config.hold ∧ Config.hold ≤ c.adc.pdCycles ∧
      c.block.st = .idle ∧ c.block.pwr = false ∧ c.block.sck = false ∧
      c.adc.phase = .ready w ∧ c.adc.sckWas = false ∧ c.adc.highFor = 0 ∧
      p.cmd_valid_i = true ∧ decode p.cmd_word_i = .ok .rdraw ∧
      (∀ x ∈ (p, d) :: rest, x.1.rst_i = false) ∧
      rest.length = 2 + frameCycles c.block.sel :=
  ⟨closedReady sel 0xFF0001#24, 0xFF0001#24, offer 0x10000000#32, ⟨none, true⟩,
    List.replicate (2 + frameCycles sel) (quiet true false, ⟨some 5#24, false⟩),
    rfl, le_refl _, le_refl _, rfl, rfl, rfl, rfl, rfl, rfl, rfl, rfl,
    by
      intro x hx
      rcases List.mem_cons.mp hx with rfl | hx
      · rfl
      · rw [(List.mem_replicate.mp hx).2]; rfl,
    by simp [closedReady]⟩

/-! ### The device -/

/-- R75, R76: the last cycle of a frame of 26 pulses starts the next conversion in mode 2, whatever is drawn. -/
theorem test_device_frame_ends :
    (adcAfter ⟨some 7#24, true⟩ (inState .pulseLo (quiet true false)) (inState .done (quiet true false))
      { settleCycles := 1, pdCycles := 9, phase := .frame 5#24 26, mode := 1#2, sckWas := false, highFor := 0 }) =
      { settleCycles := 1, pdCycles := 9, phase := .converting, mode := 2#2, sckWas := false, highFor := 0 } := by decide

/-- `93` U2, U3: the end of a whole frame of the block does not bring a lost device back. -/
theorem test_device_stays_lost :
    (adcAfter ⟨some 7#24, true⟩ (inState .pulseLo (quiet true false)) (inState .done (quiet true false))
      { settleCycles := 1, pdCycles := 9, phase := .lost, mode := 1#2, sckWas := false, highFor := 0 }).phase = .lost := by
  decide

/-- `93` U7: during the selector pulses the line is whatever is drawn. -/
theorem test_device_selector_pulse_line (level : Bool) :
    adcLine ⟨none, level⟩
      { settleCycles := 1, pdCycles := 9, phase := .frame 5#24 25, mode := 1#2, sckWas := true, highFor := 3 } = level := by
  revert level; decide

/-- Both ways the first clause allows: the last cycle of the block's frame, and a line high for longer than `T_PD_MIN`. -/
theorem witness_LostDeviceIsLeftOnlyByAPowerDown (p : PortInputs) (d : AdcDraw) (hp : p.rst_i = false) :
    (∃ c c' : ClosedState, c.adc.phase = .lost ∧ closedStep p d c = .next c' ∧ c.block.st = .pulseLo ∧
      c'.block.st = .done ∧ ¬(c.block.sck = true ∧ c.adc.pdCycles < c.adc.highFor + 1)) ∧
    (∃ c c' : ClosedState, c.adc.phase = .lost ∧ closedStep p d c = .next c' ∧ c'.adc.phase = .poweredDown) := by
  obtain ⟨rst, valid, word, dout, slot⟩ := p
  obtain rfl : rst = false := hp
  obtain ⟨_ | v, level⟩ := d
  all_goals exact ⟨⟨⟨{ State.reset with st := .pulseLo }, ⟨1, 9, .lost, 1#2, false, 0⟩⟩, _, rfl, rfl, rfl, rfl, by decide⟩,
    ⟨⟨{ State.reset with st := .pdLo, sck := true, holdCnt := 0#_ }, ⟨1, 9, .lost, 1#2, true, 9⟩⟩, _, rfl, rfl, rfl⟩⟩

end Sys2Proof.Tests
end

section
/-!
SUPPORT. What a step can do to one register at a time, read off the cases of `StepCase`; the invariants need no more.
-/

namespace Sys2Proof.Machine

/-! ### Registers a step writes in few ways -/

/-- R35: reset and `SETCG` write `SEL`, nothing else does. -/
theorem StepCase.sel_cases {s t : State} (h : StepCase s t) :
    t.sel = s.sel ∨ ((portNow s).rst_i = true ∧ t.sel = 1#2) ∨
      (s.st = .idle ∧ (portNow s).cmd_valid_i = true ∧ decode (portNow s).cmd_word_i = .ok (.setcg t.sel)) := by
  cases h with
  | reset hr => exact .inr (.inl ⟨hr, rfl⟩)
  | setcg v _ hst hv hd => exact .inr (.inr ⟨hst, hv, hd⟩)
  | _ => exact .inl rfl

/-- R34, R131: reset and `PWRUP` clear `PWR`, the end of `PD_LO` sets it, nothing else writes it. -/
theorem StepCase.pwr_cases {s t : State} (h : StepCase s t) :
    t.pwr = s.pwr ∨
      (t.pwr = true ∧ s.st = .pdLo ∧ s.holdCnt = 0#_ ∧ (portNow s).rst_i = false) ∨
      (t.pwr = false ∧ ((portNow s).rst_i = true ∨
        (s.st = .idle ∧ (portNow s).cmd_valid_i = true ∧ decode (portNow s).cmd_word_i = .ok .pwrup))) := by
  cases h with
  | reset hr => exact .inr (.inr ⟨rfl, .inl hr⟩)
  | pwrup _ hst hv hd => exact .inr (.inr ⟨rfl, .inr ⟨hst, hv, hd⟩⟩)
  | pdLoEnd hr hst hc => exact .inr (.inl ⟨rfl, hst, hc, hr⟩)
  | _ => exact .inl rfl

/-- R39, R100: `HOLDCNT` is kept, cleared by reset, loaded with `HOLD − 1`, or counted down from a value that is not 0. -/
theorem StepCase.holdCnt_cases {s t : State} (h : StepCase s t) :
    t.holdCnt = s.holdCnt ∨ t.holdCnt = 0#_ ∨ t.holdCnt = holdReload ∨
      (s.holdCnt ≠ 0#_ ∧ t.holdCnt = s.holdCnt - 1#_) := by
  cases h with
  | reset => exact .inr (.inl rfl)
  | counting _ _ hc => exact .inr (.inr (.inr ⟨hc, rfl⟩))
  | pwrdn | readySeen | bitHiEnd | nextBit | lastBit | pulseHiEnd | nextPulse => exact .inr (.inr (.inl rfl))
  | _ => exact .inl rfl

/-- R37: `BITCNT` is kept, set to 0, or counted up from a value that is not 23. -/
theorem StepCase.bitCnt_cases {s t : State} (h : StepCase s t) :
    t.bitCnt = s.bitCnt ∨ t.bitCnt = 0#5 ∨ (s.bitCnt ≠ 23#5 ∧ t.bitCnt = s.bitCnt + 1#5) := by
  cases h with
  | reset | readySeen => exact .inr (.inl rfl)
  | nextBit _ _ _ hb => exact .inr (.inr ⟨hb, rfl⟩)
  | _ => exact .inl rfl

/-- R38: `PULSECNT` is kept, cleared by reset, loaded from `SEL`, or counted down from a value that is not 0. -/
theorem StepCase.pulseCnt_cases {s t : State} (h : StepCase s t) :
    t.pulseCnt = s.pulseCnt ∨ t.pulseCnt = 0#2 ∨ t.pulseCnt = pulsesAfterFirst s.sel ∨
      (s.pulseCnt ≠ 0#2 ∧ t.pulseCnt = s.pulseCnt - 1#2) := by
  cases h with
  | reset => exact .inr (.inl rfl)
  | lastBit => exact .inr (.inr (.inl rfl))
  | nextPulse _ _ _ hp => exact .inr (.inr (.inr ⟨hp, rfl⟩))
  | _ => exact .inl rfl

/-- R40: `SAMPLE` is kept, cleared by reset, or the sign-extended shift register. -/
theorem StepCase.sample_cases {s t : State} (h : StepCase s t) :
    t.sample = s.sample ∨ t.sample = 0#32 ∨ t.sample = sext32 s.shift := by
  cases h with
  | reset => exact .inr (.inl rfl)
  | lastBitNoPulse | lastBit => exact .inr (.inr rfl)
  | _ => exact .inl rfl

/-- R46, R92: `RSTAT` is kept or takes the code of a status. -/
theorem StepCase.rstat_cases {s t : State} (h : StepCase s t) :
    t.rstat = s.rstat ∨ ∃ r : Status, t.rstat = statusCode r := by
  cases h with
  | illegal => exact .inr ⟨.illegalCommand, rfl⟩
  | rdavgZero => exact .inr ⟨.preconditionViolation, rfl⟩
  | reset | setcg | getcg | pwrup | doneRaw | divide | pdLoEnd => exact .inr ⟨.ok, rfl⟩
  | _ => exact .inl rfl

/-! ### The registers of an average -/

/-- How a step comes to a state of an averaged read: `RDAVG` is accepted (R117), the read goes on with its registers as they
are, or `DONE` adds a sample that is not the last (R119). -/
theorem StepCase.averaging_cases {s t : State} (h : StepCase s t) (hst : t.st ∈ readStates) (ha : t.avgMode = true) :
    (portNow s).rst_i = false ∧
    ((s.st = .idle ∧ t.count ≠ 0#16 ∧ t.remain = t.count ∧ t.acc = 0#40) ∨
      (s.st ∈ readStates ∧ s.st ≠ .done ∧ s.avgMode = true ∧ t.count = s.count ∧ t.remain = s.remain ∧ t.acc = s.acc) ∨
      (s.st = .done ∧ s.avgMode = true ∧ s.remain ≠ 1#16 ∧
        t.count = s.count ∧ t.remain = s.remain - 1#16 ∧ t.acc = accumulate s.acc s.sample)) := by
  have idle_not_read : SeqState.idle ∉ readStates := by decide
  cases h with
  | rdavg c hr hs _ _ hc _ => exact ⟨hr, .inl ⟨hs, hc, rfl, rfl⟩⟩
  | rdraw => cases ha
  | doneMore hr hs ha' hn => exact ⟨hr, .inr (.inr ⟨hs, ha', hn, rfl, rfl, rfl⟩)⟩
  | counting hr hs _ =>
    refine ⟨hr, .inr (.inl ⟨hst, fun hd => ?_, ha, rfl, rfl, rfl⟩)⟩
    simp [hd] at hs
  | slotWait hr hs | slotSeen hr hs | readyWait hr hs | readySeen hr hs | bitHiEnd hr hs | nextBit hr hs
  | lastBitNoPulse hr hs | lastBit hr hs | pulseHiEnd hr hs | nextPulse hr hs | lastPulse hr hs =>
    exact ⟨hr, .inr (.inl ⟨by rw [hs]; decide, by rw [hs]; decide, ha, rfl, rfl, rfl⟩)⟩
  | quiet _ hs | illegal _ _ hs | rdavgZero _ hs | setcg _ _ hs | getcg _ hs | pwrup _ hs =>
    exact absurd (hs ▸ hst) idle_not_read
  | reset | doneRaw | divide | pdLoEnd => exact absurd hst idle_not_read
  | doneLast => exact absurd hst (by decide : SeqState.div ∉ readStates)
  | pwrdn => exact absurd hst (by decide : SeqState.pdLo ∉ readStates)

/-- How a step comes to the division: `DONE` adds the last sample (R119). -/
theorem StepCase.dividing_cases {s t : State} (h : StepCase s t) (hst : t.st = .div) :
    (portNow s).rst_i = false ∧ s.st = .done ∧ s.avgMode = true ∧ s.remain = 1#16 ∧
      t.count = s.count ∧ t.remain = 0#16 ∧ t.acc = accumulate s.acc s.sample := by
  cases h with
  | doneLast hr hs ha h1 => exact ⟨hr, hs, ha, h1, rfl, by simp [h1], rfl⟩
  | counting _ hs _ => simp [show s.st = .div from hst] at hs
  | quiet _ hs | illegal _ _ hs | rdavgZero _ hs | setcg _ _ hs | getcg _ hs | pwrup _ hs | slotWait _ hs
  | readyWait _ hs => exact absurd (hs.symm.trans hst) (by decide)
  | _ => cases hst

/-- A read comes to be only in Normal, or from a state of a read; no step of it writes `PWR` (R136, R101). -/
theorem StepCase.read_cases {s t : State} (h : StepCase s t) (hst : t.st ∈ readStates ∨ t.st = .div) :
    t.pwr = false ∨ (t.pwr = s.pwr ∧ (s.st ∈ readStates ∨ s.st = .div)) := by
  have idle_not_read : ¬(SeqState.idle ∈ readStates ∨ SeqState.idle = .div) := by decide
  cases h with
  | rdraw _ _ _ _ hp | rdavg _ _ _ _ _ _ hp => exact .inl hp
  | reset => exact .inl rfl
  | counting => exact .inr ⟨rfl, hst⟩
  | pwrdn => exact absurd hst (by decide : ¬(SeqState.pdLo ∈ readStates ∨ SeqState.pdLo = .div))
  | quiet _ hs | illegal _ _ hs | rdavgZero _ hs | setcg _ _ hs | getcg _ hs | pwrup _ hs =>
    exact absurd (hs ▸ hst) idle_not_read
  | pdLoEnd => exact absurd hst idle_not_read
  | slotWait _ hs | slotSeen _ hs | readyWait _ hs | readySeen _ hs | bitHiEnd _ hs | nextBit _ hs
  | lastBitNoPulse _ hs | lastBit _ hs | pulseHiEnd _ hs | nextPulse _ hs | lastPulse _ hs | doneRaw _ hs
  | doneMore _ hs | doneLast _ hs | divide _ hs => exact .inr ⟨rfl, by rw [hs]; decide⟩

/-! ### Exact arithmetic -/

theorem sext32_toInt (w : Raw) : (sext32 w).toInt = w.toInt := BitVec.toInt_signExtend_of_le (by decide)

theorem sext40_toInt (w : Word) : (sext40 w).toInt = w.toInt := BitVec.toInt_signExtend_of_le (by decide)

theorem truncate_sext32 (w : Raw) : (sext32 w).truncate 24 = w := by
  ext i hi
  simp [sext32, BitVec.getElem_signExtend, hi, show i < 32 by omega]

/-- The range of one sample (R11). -/
theorem raw_toInt_range (w : Raw) : -8388608 ≤ w.toInt ∧ w.toInt ≤ 8388607 := by
  have hl := BitVec.le_toInt w
  have hu := BitVec.toInt_lt (x := w)
  omega

theorem sext32_toInt_range (w : Raw) : -8388608 ≤ (sext32 w).toInt ∧ (sext32 w).toInt ≤ 8388607 := by
  rw [sext32_toInt]
  exact raw_toInt_range w

section
variable {acc : Acc} {n : Nat} {sample : Word}
  (hacc : accWithin acc n) (hn : n ≤ 65535) (hs : -8388608 ≤ sample.toInt ∧ sample.toInt ≤ 8388607)
include hacc hn hs

/-- R122: one more sample does not overflow a sum of at most 65535. -/
theorem accumulate_toInt : (accumulate acc sample).toInt = acc.toInt + sample.toInt := by
  obtain ⟨hlo, hhi⟩ := hacc
  rw [accumulate, BitVec.toInt_add, sext40_toInt]
  exact Int.bmod_eq_of_le (by omega) (by omega)

theorem accWithin_accumulate : accWithin (accumulate acc sample) (n + 1) := by
  have heq := accumulate_toInt hacc hn hs
  obtain ⟨hlo, hhi⟩ := hacc
  unfold accWithin
  omega

end

theorem accWithin_zero : accWithin 0#40 0 := by unfold accWithin; decide

end Sys2Proof.Machine
end

section
/-!
SUPPORT. The invariant of one state (`10_state.md` R54): it holds at reset, and every step keeps each of its parts.
-/

namespace Sys2Proof.Machine

/-! ### The width of `HOLDCNT` -/

/-- R30: the width is the least positive one that holds `HOLD − 1`. -/
theorem holdCntWidth_le_iff (hold : Nat) {width : Nat} (hw : 1 ≤ width) :
    Config.holdCntWidth hold ≤ width ↔ hold - 1 < 2 ^ width := by
  unfold Config.holdCntWidth
  split
  · have : 0 < 2 ^ width := Nat.two_pow_pos width
    omega
  · rw [← Nat.log2_lt (by omega)]
    omega

/-- R39, R100: a phase loads exactly `HOLD − 1`. -/
@[simp] theorem holdReload_toNat : holdReload.toNat = Config.hold - 1 := by
  have hfits := (holdCntWidth_le_iff Config.hold (holdCntWidth_pos _)).mp le_rfl
  rw [holdReload, BitVec.toNat_ofNat, Nat.mod_eq_of_lt hfits]

/-! ### The parts of the invariant -/

/-- R54 i: outside the high phases, and in `IDLE` but for PoweredDown, the clock line is low. -/
theorem Inv.sck_low {s : State} (hi : Inv s) (h1 : s.st ≠ .bitHi) (h2 : s.st ≠ .pulseHi)
    (h3 : s.st = .idle → s.pwr = false) : s.sck = false := by
  rw [← Bool.not_eq_true, hi.clockLine]
  rintro (h | h | ⟨h, hp⟩)
  · exact h1 h
  · exact h2 h
  · simp [h3 h] at hp

/-- R40: `SAMPLE` is the sign extension of a 24-bit word, so it is in the range of one sample. -/
theorem Inv.sample_range {s : State} (hi : Inv s) : -8388608 ≤ s.sample.toInt ∧ s.sample.toInt ≤ 8388607 := by
  have h : s.sample = sext32 (s.sample.truncate 24) := hi.sample.symm
  rw [h]
  exact sext32_toInt_range _

section
variable {s t : State} (hi : Inv s) (h : StepCase s t)
include hi h

theorem StepCase.keeps_clockLine : t.sck = true ↔ (t.st = .bitHi ∨ t.st = .pulseHi ∨ (t.st = .idle ∧ t.pwr = true)) := by
  cases h with
  | quiet | illegal | rdavgZero | setcg | getcg | slotWait | readyWait | counting => exact hi.clockLine
  | rdraw _ hs _ _ hp | rdavg _ _ hs _ _ _ hp =>
    have hlow := hi.sck_low (by simp [hs]) (by simp [hs]) (fun _ => hp)
    simp [hlow]
  | slotSeen _ hs | lastBitNoPulse _ hs | lastPulse _ hs | doneMore _ hs | doneLast _ hs =>
    have hlow := hi.sck_low (by simp [hs]) (by simp [hs]) (by simp [hs])
    simp [hlow]
  | doneRaw _ hs | divide _ hs =>
    have hlow := hi.sck_low (by simp [hs]) (by simp [hs]) (by simp [hs])
    have hnormal := hi.readsInNormal (by rw [hs]; decide)
    simp [hlow, hnormal]
  | reset | pwrdn | readySeen | bitHiEnd | nextBit | lastBit | pulseHiEnd | nextPulse | pdLoEnd => simp
  | pwrup _ hs => simp [hs]

theorem StepCase.keeps_holdCnt : t.holdCnt.toNat ≤ Config.hold - 1 := by
  rcases h.holdCnt_cases with h | h | h | ⟨hc, h⟩ <;> rw [h]
  · exact hi.holdCnt
  · exact Nat.zero_le _
  · exact holdReload_toNat.le
  · rw [holdCount_sub_one_toNat _ hc]
    exact (Nat.sub_le _ _).trans hi.holdCnt

theorem StepCase.keeps_bitCnt : t.bitCnt.toNat ≤ 23 := by
  have hb := hi.bitCnt
  rcases h.bitCnt_cases with h | h | ⟨hne, h⟩ <;> rw [h]
  · exact hb
  · exact Nat.zero_le _
  · bv_omega

theorem StepCase.keeps_pulseCnt : t.pulseCnt.toNat ≤ 2 := by
  have hp := hi.pulseCnt
  have hsel := pulses_le_three s.sel
  rcases h.pulseCnt_cases with h | h | h | ⟨hne, h⟩ <;> rw [h]
  · exact hp
  · exact Nat.zero_le _
  · rw [pulsesAfterFirst_toNat]
    omega
  · bv_omega

theorem StepCase.keeps_averaging (hst : t.st ∈ readStates) (ha : t.avgMode = true) :
    1 ≤ t.remain.toNat ∧ t.remain.toNat ≤ t.count.toNat ∧ accWithin t.acc (t.count.toNat - t.remain.toNat) := by
  obtain ⟨-, ⟨-, hc, hr, hacc⟩ | ⟨hs, -, hm, hc, hr, hacc⟩ | ⟨hs, hm, hne, hc, hr, hacc⟩⟩ := h.averaging_cases hst ha
  · rw [hr, hacc, Nat.sub_self]
    exact ⟨by bv_omega, le_rfl, accWithin_zero⟩
  · rw [hc, hr, hacc]
    exact hi.averaging hs hm
  · obtain ⟨hpos, hle, hwithin⟩ := hi.averaging (by rw [hs]; decide) hm
    have hrem : (s.remain - 1#16).toNat = s.remain.toNat - 1 := by bv_omega
    have htwo : 2 ≤ s.remain.toNat := by bv_omega
    have hadd := accWithin_accumulate hwithin (by omega) hi.sample_range
    rw [hc, hr, hacc, hrem]
    refine ⟨by omega, by omega, ?_⟩
    rwa [show s.count.toNat - (s.remain.toNat - 1) = s.count.toNat - s.remain.toNat + 1 by omega]

theorem StepCase.keeps_dividing (hst : t.st = .div) :
    t.remain = 0#16 ∧ 1 ≤ t.count.toNat ∧ accWithin t.acc t.count.toNat := by
  obtain ⟨-, hs, hm, h1, hc, hr, hacc⟩ := h.dividing_cases hst
  obtain ⟨-, hle, hwithin⟩ := hi.averaging (by rw [hs]; decide) hm
  rw [h1, show (1#16).toNat = 1 from rfl] at hle hwithin
  have hadd := accWithin_accumulate hwithin (by omega) hi.sample_range
  rw [Nat.sub_add_cancel hle] at hadd
  rw [hc, hr, hacc]
  exact ⟨rfl, hle, hadd⟩

theorem StepCase.keeps_sample : (t.sample.truncate 24).signExtend 32 = t.sample := by
  rcases h.sample_cases with h | h | h <;> rw [h]
  · exact hi.sample
  · rfl
  · exact congrArg sext32 (truncate_sext32 s.shift)

theorem StepCase.keeps_readsInNormal (hst : t.st ∈ readStates ∨ t.st = .div) : t.pwr = false := by
  rcases h.read_cases hst with hp | ⟨hp, hs⟩
  · exact hp
  · exact hp.trans (hi.readsInNormal hs)

theorem StepCase.keeps_status : t.rstat.toNat ≤ 2 := by
  rcases h.rstat_cases with h | ⟨r, h⟩ <;> rw [h]
  · exact hi.status
  · cases r <;> decide

theorem StepCase.keeps_inv : Inv t where
  clockLine := h.keeps_clockLine hi
  holdCnt := h.keeps_holdCnt hi
  bitCnt := h.keeps_bitCnt hi
  pulseCnt := h.keeps_pulseCnt hi
  averaging := h.keeps_averaging hi
  dividing := h.keeps_dividing hi
  sample := h.keeps_sample hi
  readsInNormal := h.keeps_readsInNormal hi
  status := h.keeps_status hi

end

theorem inv_reset : Inv State.reset where
  clockLine := by decide
  holdCnt := Nat.zero_le _
  bitCnt := by decide
  pulseCnt := by decide
  averaging := fun h => absurd h (by decide)
  dividing := fun h => absurd h (by decide)
  sample := by decide
  readsInNormal := fun _ => rfl
  status := by decide

/-! ### The sum of the samples -/

/-- Every sample of the history after a step was there before, or is the `SAMPLE` the step adds. -/
theorem mem_takenAfter {s : State} {taken : List Int} {v : Int} (h : v ∈ takenAfter s taken) :
    v ∈ taken ∨ v = s.sample.toInt := by
  unfold takenAfter at h
  split at h
  · cases h
  · split at h
    · cases h
    · split at h
      · simpa using h
      · exact .inl h

theorem takenAfter_idle {s : State} (taken : List Int) (hr : (portNow s).rst_i = false) (hs : s.st = .idle) :
    takenAfter s taken = [] := by
  simp [takenAfter, hr, hs]

theorem takenAfter_done {s : State} (taken : List Int) (hr : (portNow s).rst_i = false) (hs : s.st = .done)
    (hm : s.avgMode = true) : takenAfter s taken = taken ++ [s.sample.toInt] := by
  simp [takenAfter, hr, hs, hm]

theorem takenAfter_reading {s : State} (taken : List Int) (hr : (portNow s).rst_i = false) (hs : s.st ≠ .idle)
    (hd : s.st ≠ .done) : takenAfter s taken = taken := by
  simp [takenAfter, hr, hs, hd]

/-- `DONE` of an average adds `SAMPLE` to `ACC` exactly (R119, R122). -/
theorem SumInv.accumulate_toInt_eq_sum {taken : List Int} {s : State} (hi : SumInv taken s) (hs : s.st = .done)
    (hm : s.avgMode = true) : (accumulate s.acc s.sample).toInt = (taken ++ [s.sample.toInt]).sum := by
  have hread : s.st ∈ readStates := by rw [hs]; decide
  obtain ⟨-, -, hwithin⟩ := hi.inv.averaging hread hm
  rw [accumulate_toInt hwithin (by omega) hi.inv.sample_range, (hi.averaging hread hm).2]
  simp

section
variable {taken : List Int} {s t : State} (hi : SumInv taken s) (h : StepCase s t)
include hi h

theorem StepCase.keeps_sumAveraging (hst : t.st ∈ readStates) (ha : t.avgMode = true) :
    (takenAfter s taken).length = t.count.toNat - t.remain.toNat ∧ t.acc.toInt = (takenAfter s taken).sum := by
  obtain ⟨hrst, ⟨hs, -, hr, hacc⟩ | ⟨hs, hd, hm, hc, hr, hacc⟩ | ⟨hs, hm, hne, hc, hr, hacc⟩⟩ := h.averaging_cases hst ha
  · rw [takenAfter_idle taken hrst hs, hr, hacc]
    simp
  · have hidle : s.st ≠ .idle := fun h => absurd (h ▸ hs) (by decide)
    rw [takenAfter_reading taken hrst hidle hd, hc, hr, hacc]
    exact hi.averaging hs hm
  · have hread : s.st ∈ readStates := by rw [hs]; decide
    obtain ⟨hpos, hle, -⟩ := hi.inv.averaging hread hm
    have hlen := (hi.averaging hread hm).1
    have hrem : (s.remain - 1#16).toNat = s.remain.toNat - 1 := by bv_omega
    rw [takenAfter_done taken hrst hs hm, hc, hr, hacc, hrem]
    refine ⟨?_, hi.accumulate_toInt_eq_sum hs hm⟩
    rw [List.length_append, List.length_singleton]
    omega

theorem StepCase.keeps_sumDividing (hst : t.st = .div) :
    (takenAfter s taken).length = t.count.toNat ∧ t.acc.toInt = (takenAfter s taken).sum := by
  obtain ⟨hrst, hs, hm, h1, hc, -, hacc⟩ := h.dividing_cases hst
  have hread : s.st ∈ readStates := by rw [hs]; decide
  obtain ⟨-, hle, -⟩ := hi.inv.averaging hread hm
  have hlen := (hi.averaging hread hm).1
  rw [h1, show (1#16).toNat = 1 from rfl] at hle hlen
  rw [takenAfter_done taken hrst hs hm, hc, hacc]
  refine ⟨?_, hi.accumulate_toInt_eq_sum hs hm⟩
  rw [List.length_append, List.length_singleton]
  omega

theorem StepCase.keeps_sumInv : SumInv (takenAfter s taken) t where
  inv := h.keeps_inv hi.inv
  range := by
    intro v hv
    rcases mem_takenAfter hv with hv | rfl
    · exact hi.range v hv
    · exact hi.inv.sample_range
  averaging := h.keeps_sumAveraging hi
  dividing := h.keeps_sumDividing hi

end

theorem sumInv_reset : SumInv [] State.reset where
  inv := inv_reset
  range := fun v hv => by cases hv
  averaging := fun h => absurd h (by decide)
  dividing := fun h => absurd h (by decide)

/-! ### The obligations about the invariants -/

/-- Settles O39: each part of the invariant is kept by every case of a step. -/
theorem stepKeepsTheInvariant : Obligations.StepKeepsTheInvariant :=
  fun _ _ hi hs => (step_cases hs).keeps_inv hi

/-- Settles O57: a step of an averaged read keeps the sum, or adds one sample to it and to the history. -/
theorem stepKeepsTheSumOfTheSamples : Obligations.StepKeepsTheSumOfTheSamples :=
  fun _ _ _ hi hs => (step_cases hs).keeps_sumInv hi

/-- Settles O40. -/
theorem resetMeetsTheInvariant : Obligations.ResetMeetsTheInvariant := inv_reset

/-- Settles O58. -/
theorem resetMeetsTheSumInvariant : Obligations.ResetMeetsTheSumInvariant := sumInv_reset

/-- Settles O41, from the width's defining inequality and the reload. -/
theorem holdCounterFitsItsWidth : Obligations.HoldCounterFitsItsWidth :=
  ⟨fun hold _ => ⟨holdCntWidth_pos hold, (holdCntWidth_le_iff hold (holdCntWidth_pos hold)).mp le_rfl,
      fun _ hw hfits => (holdCntWidth_le_iff hold hw).mpr hfits⟩,
    fun _ _ => holdReload_toNat⟩

end Sys2Proof.Machine
end

section
/-!
SUPPORT. What the inputs of a cycle can reach: a step reads them in the present cycle only, the data line and the slot in their
own states only, and a run in `FAULT` reads nothing but reset. And who writes `SEL` and `PWR`.
-/

namespace Sys2Proof.Machine

/-! ### A step with given inputs -/

theorem beginCycle_drive (p : PortInputs) (s : State) : beginCycle (drive p s) = beginCycle s := rfl

theorem resetCycle_drive (p : PortInputs) (s : State) : resetCycle (drive p s) = resetCycle s := rfl

/-- A cycle with the inputs `p`, as a function of `p` (R96). -/
theorem step_drive (p : PortInputs) (s : State) :
    step (drive p s) = if p.rst_i then .next (resetCycle s) else stateRule exec p (beginCycle s) := by
  rw [step, oneCycle, portNow_drive, resetCycle_drive, beginCycle_drive]

/-- The cycle as it comes, in the same form. -/
theorem step_eq (s : State) :
    step s = if (portNow s).rst_i then .next (resetCycle s) else stateRule exec (portNow s) (beginCycle s) := rfl

/-- R23: the rule of the state reads `dout_i` in `WAIT_RDY` and in the last cycle of `BIT_HI` only. -/
theorem stateRule_dout (run : Instr → State → Host.Outcome State Fault Refusal) (p : PortInputs) (level : Bool) (s : State)
    (hrdy : s.st ≠ .waitRdy) (hhi : ¬(s.st = .bitHi ∧ s.holdCnt = 0#_)) :
    stateRule run { p with dout_i := level } s = stateRule run p s := by
  unfold stateRule
  cases hst : s.st with
  | waitRdy => exact absurd hst hrdy
  | bitHi =>
    have hc : s.holdCnt ≠ 0#_ := fun hc => hhi ⟨hst, hc⟩
    simp only [bitHiRule, duringPhase_counting _ s hc]
  | _ => rfl

/-- R25: the rule of the state reads `slot_i` in `WAIT_SLOT` only. -/
theorem stateRule_slot (run : Instr → State → Host.Outcome State Fault Refusal) (p : PortInputs) (level : Bool) (s : State)
    (hslot : s.st ≠ .waitSlot) : stateRule run { p with slot_i := level } s = stateRule run p s := by
  unfold stateRule
  cases hst : s.st with
  | waitSlot => exact absurd hst hslot
  | _ => rfl

/-! ### A run in `FAULT` -/

/-- R32: without reset a run in `FAULT` stays there. -/
theorem runWith_fault (r : Fault) (ps : List PortInputs) (h : ∀ q ∈ ps, q.rst_i = false) :
    runWith ps (.fault r) = .fault r := by
  induction ps with
  | nil => rfl
  | cons q qs ih =>
    have hq : q.rst_i = false := h q List.mem_cons_self
    rw [runWith, cycleWith, hq]
    exact ih fun x hx => h x (List.mem_cons_of_mem _ hx)

theorem runWith_append (ps qs : List PortInputs) (o : Host.Outcome State Fault Refusal) :
    runWith (ps ++ qs) o = runWith qs (runWith ps o) := by
  induction ps generalizing o with
  | nil => rfl
  | cons p ps ih => exact ih (cycleWith p o)

/-! ### The obligations about the inputs and about `SEL` and `PWR` -/

/-- Settles O10. -/
theorem dataLineIsReadInTwoPlacesOnly : Obligations.DataLineIsReadInTwoPlacesOnly := by
  intro s level hrdy hhi
  rw [step_drive, step_eq s, stateRule_dout exec (portNow s) level (beginCycle s) hrdy hhi]

/-- Settles O11. -/
theorem slotInputIsReadInWaitSlotOnly : Obligations.SlotInputIsReadInWaitSlotOnly := by
  intro s level hslot
  rw [step_drive, step_eq s, stateRule_slot exec (portNow s) level (beginCycle s) hslot]

/-- Settles O14, by induction on the inputs. -/
theorem faultIsLeftOnlyByReset : Obligations.FaultIsLeftOnlyByReset := by
  intro r ps p hps hp
  have hstay := runWith_fault r ps hps
  refine ⟨hstay, by rw [hstay]; rfl, ?_⟩
  rw [runWith_append, hstay, runWith, cycleWith, if_pos hp, runWith]

/-- Settles O35. -/
theorem onlySetcgAndResetWriteTheSelector : Obligations.OnlySetcgAndResetWriteTheSelector :=
  fun _ _ hs hne => (step_cases hs).sel_cases.resolve_left hne

/-- Settles O36. -/
theorem onlyPowerCommandsAndResetWriteThePowerState : Obligations.OnlyPowerCommandsAndResetWriteThePowerState := by
  intro s t hs
  rcases (step_cases hs).pwr_cases with h | ⟨h, hend⟩ | ⟨h, hclear⟩ <;> rw [h]
  · exact ⟨fun h0 h1 => absurd (h0.symm.trans h1) (by decide), fun h1 h0 => absurd (h0.symm.trans h1) (by decide)⟩
  · exact ⟨fun _ _ => hend, fun _ h0 => absurd h0 (by decide)⟩
  · exact ⟨fun _ h1 => absurd h1 (by decide), fun _ _ => hclear⟩

/-- Settles O7. -/
theorem stepRunsTheDecodedCommand : Obligations.StepRunsTheDecodedCommand := by
  intro s i hr hst hv hd
  rw [step_of_idle hr hst, idleRule, if_pos hv, hd]
  rfl

end Sys2Proof.Machine
end

section
/-!
SUPPORT. Noninterference of the nine unobservable elements (`10_state.md` R53): two states are indistinct when they agree on
everything else and on those of the nine that the sequencer state still reads. Every step keeps that, and indistinct states
show the same outputs.
-/

namespace Sys2Proof.Machine

/-! ### The relation -/

/-- The state without its nine unobservable elements (R30). -/
def visible (s : State) : State :=
  { s with
    shift := 0#24, bitCnt := 0#5, pulseCnt := 0#2, holdCnt := 0#_, sample := 0#32,
    acc := 0#40, count := 0#16, remain := 0#16, avgMode := false }

/-- The registers of an average agree, if one is in progress. -/
def SameAverage (s t : State) : Prop :=
  s.avgMode = t.avgMode ∧ (s.avgMode = true → s.acc = t.acc ∧ s.count = t.count ∧ s.remain = t.remain)

/-- The last `n` bits shifted in agree. -/
def SameBits (n : Nat) (u v : Raw) : Prop := ∀ i < n, i < 24 → u.getLsbD i = v.getLsbD i

/-- The unobservable elements that the block still reads from a sequencer state agree; the others it writes first. -/
@[reducible] def SameLive (s t : State) : Prop :=
  match s.st with
  | .idle => True
  | .waitSlot => SameAverage s t
  | .waitRdy => SameAverage s t
  | .bitHi => s.holdCnt = t.holdCnt ∧ SameAverage s t ∧ s.bitCnt = t.bitCnt ∧ SameBits s.bitCnt.toNat s.shift t.shift
  | .bitLo => s.holdCnt = t.holdCnt ∧ SameAverage s t ∧ s.bitCnt = t.bitCnt ∧ SameBits (s.bitCnt.toNat + 1) s.shift t.shift
  | .pulseHi => s.holdCnt = t.holdCnt ∧ SameAverage s t ∧ s.sample = t.sample ∧ s.pulseCnt = t.pulseCnt
  | .pulseLo => s.holdCnt = t.holdCnt ∧ SameAverage s t ∧ s.sample = t.sample ∧ s.pulseCnt = t.pulseCnt
  | .done => SameAverage s t ∧ s.sample = t.sample
  | .div => s.acc = t.acc ∧ s.count = t.count
  | .pdLo => s.holdCnt = t.holdCnt

/-- No later output tells the two states apart. -/
structure Indistinct (s t : State) : Prop where
  visible : visible s = visible t
  live : SameLive s t

/-- Two outcomes stop for the same reason, or go on to states that are related. -/
inductive SameOutcome (R : State → State → Prop) :
    Host.Outcome State Fault Refusal → Host.Outcome State Fault Refusal → Prop where
  | next {s t : State} : R s t → SameOutcome R (.next s) (.next t)
  | fault (r : Fault) : SameOutcome R (.fault r) (.fault r)
  | refused (r : Refusal) : SameOutcome R (.refused r) (.refused r)

/-! ### Bits -/

theorem sameBits_zero (u v : Raw) : SameBits 0 u v := fun _ h => absurd h (Nat.not_lt_zero _)

theorem SameBits.mono {m n : Nat} {u v : Raw} (h : SameBits n u v) (hmn : m ≤ n) : SameBits m u v :=
  fun i hi => h i (hi.trans_le hmn)

/-- Shifting the same bit into both makes one more bit agree. -/
theorem SameBits.shiftIn {n : Nat} {u v : Raw} (h : SameBits n u v) (bit : Bool) :
    SameBits (n + 1) (shiftIn u bit) (shiftIn v bit) := by
  intro i hi h24
  rw [shiftIn_getLsbD u bit i h24, shiftIn_getLsbD v bit i h24]
  split
  · rfl
  · exact h (i - 1) (by omega) (by omega)

theorem SameBits.eq {u v : Raw} (h : SameBits 24 u v) : u = v :=
  BitVec.eq_of_getLsbD_eq fun i hi => h i hi hi

/-! ### Each rule keeps the relation -/

section
variable {s t : State} (h : Indistinct s t)
include h

theorem Indistinct.st : s.st = t.st := (congrArg State.st h.visible :)
theorem Indistinct.pwr : s.pwr = t.pwr := (congrArg State.pwr h.visible :)
theorem Indistinct.sel : s.sel = t.sel := (congrArg State.sel h.visible :)

theorem Indistinct.beginCycle : Indistinct (beginCycle s) (beginCycle t) :=
  ⟨congrArg Machine.beginCycle h.visible, h.live⟩

theorem Indistinct.portNow : portNow s = portNow t :=
  portAt_congr (congrArg State.inputs h.visible) (congrArg State.cycle h.visible) 0

theorem Indistinct.outputs : outputs s = outputs t := (congrArg Machine.outputs h.visible :)

/-- A response that leads to `IDLE` needs its datum alone to agree. -/
theorem Indistinct.respondIdle (r : Status) {d d' : BitVec 32} (hd : d = d') :
    Indistinct (respond r d { s with st := .idle }) (respond r d' { t with st := .idle }) := by
  subst hd
  exact ⟨(congrArg (fun v => respond r d { v with st := .idle }) h.visible :), trivial⟩

theorem Indistinct.waitSlotRule (hst : s.st = .waitSlot) (p : PortInputs) :
    Indistinct (waitSlotRule p s) (waitSlotRule p t) := by
  have hl := h.live
  simp only [SameLive, hst] at hl
  unfold Machine.waitSlotRule
  split
  · exact ⟨congrArg (fun v => { v with st := .waitRdy }) h.visible, hl⟩
  · exact h

theorem Indistinct.waitRdyRule (hst : s.st = .waitRdy) (p : PortInputs) :
    Indistinct (waitRdyRule p s) (waitRdyRule p t) := by
  have hl := h.live
  simp only [SameLive, hst] at hl
  unfold Machine.waitRdyRule
  split
  · exact h
  · exact ⟨congrArg (fun v => { v with sck := true, st := .bitHi }) h.visible, rfl, hl, rfl, sameBits_zero _ _⟩

/-- A timed state counts both down alike, and its end of phase comes in the same cycle. -/
theorem Indistinct.duringPhase {f g : State → State} (hst : s.st ∈ [SeqState.bitHi, .bitLo, .pulseHi, .pulseLo, .pdLo])
    (hend : Indistinct (f s) (g t)) : Indistinct (duringPhase f s) (duringPhase g t) := by
  have hl := h.live
  have hboth : s.holdCnt = t.holdCnt ∧ SameLive { s with holdCnt := s.holdCnt - 1#_ } { t with holdCnt := t.holdCnt - 1#_ } := by
    simp only [List.mem_cons, List.not_mem_nil, or_false] at hst
    rcases hst with hst | hst | hst | hst | hst <;> simp only [SameLive, hst] at hl ⊢
    case inr.inr.inr.inr => exact ⟨hl, congrArg (· - 1#_) hl⟩
    all_goals exact ⟨hl.1, congrArg (· - 1#_) hl.1, hl.2⟩
  obtain ⟨hhold, hcount⟩ := hboth
  by_cases hc : s.holdCnt = 0#_
  · rw [duringPhase_ending f s hc, duringPhase_ending g t (hhold ▸ hc)]
    exact hend
  · rw [duringPhase_counting f s hc, duringPhase_counting g t (hhold ▸ hc)]
    exact ⟨h.visible, hcount⟩

theorem Indistinct.bitHiEnd (hst : s.st = .bitHi) (p : PortInputs) : Indistinct (bitHiEnd p s) (bitHiEnd p t) := by
  have hl := h.live
  simp only [SameLive, hst] at hl
  obtain ⟨-, havg, hbit, hbits⟩ := hl
  exact ⟨congrArg (fun v => { v with sck := false, st := .bitLo }) h.visible, rfl, havg, hbit, hbits.shiftIn p.dout_i⟩

theorem Indistinct.bitLoEnd (hst : s.st = .bitLo) : Indistinct (bitLoEnd s) (bitLoEnd t) := by
  have hl := h.live
  simp only [SameLive, hst] at hl
  obtain ⟨-, havg, hbit, hbits⟩ := hl
  unfold Machine.bitLoEnd
  rw [← hbit, show pulses t.sel = pulses s.sel from congrArg pulses h.sel.symm]
  split
  · refine ⟨congrArg (fun v => { v with sck := true, st := .bitHi }) h.visible, rfl, havg, rfl, hbits.mono ?_⟩
    have : (s.bitCnt + 1#5).toNat ≤ s.bitCnt.toNat + 1 := by bv_omega
    exact this
  · have h23 : s.bitCnt = 23#5 := not_not.mp ‹_›
    rw [h23] at hbits
    have hshift : s.shift = t.shift := hbits.eq
    split
    · exact ⟨congrArg (fun v => { v with st := .done }) h.visible, havg, congrArg sext32 hshift⟩
    · exact ⟨congrArg (fun v => { v with sck := true, st := .pulseHi }) h.visible, rfl, havg, congrArg sext32 hshift,
        congrArg pulsesAfterFirst h.sel⟩

theorem Indistinct.pulseHiEnd (hst : s.st = .pulseHi) : Indistinct (pulseHiEnd s) (pulseHiEnd t) := by
  have hl := h.live
  simp only [SameLive, hst] at hl
  obtain ⟨-, hrest⟩ := hl
  exact ⟨congrArg (fun v => { v with sck := false, st := .pulseLo }) h.visible, rfl, hrest⟩

theorem Indistinct.pulseLoEnd (hst : s.st = .pulseLo) : Indistinct (pulseLoEnd s) (pulseLoEnd t) := by
  have hl := h.live
  simp only [SameLive, hst] at hl
  obtain ⟨-, havg, hsample, hpulse⟩ := hl
  unfold Machine.pulseLoEnd
  rw [← hpulse]
  split
  · exact ⟨congrArg (fun v => { v with sck := true, st := .pulseHi }) h.visible, rfl, havg, hsample, rfl⟩
  · exact ⟨congrArg (fun v => { v with st := .done }) h.visible, havg, hsample⟩

theorem Indistinct.doneRule (hst : s.st = .done) : Indistinct (doneRule s) (doneRule t) := by
  have hl := h.live
  simp only [SameLive, hst] at hl
  obtain ⟨⟨hmode, hregs⟩, hsample⟩ := hl
  unfold Machine.doneRule
  rw [← hmode]
  split
  · obtain ⟨hacc, hcount, hremain⟩ := hregs ‹_›
    unfold doneAverageRule
    rw [← hacc, ← hremain, ← hsample]
    split
    · exact ⟨congrArg (fun v => { v with st := .div }) h.visible, rfl, hcount⟩
    · exact ⟨congrArg (fun v => { v with st := .waitSlot }) h.visible, hmode, fun _ => ⟨rfl, hcount, rfl⟩⟩
  · exact h.respondIdle .ok hsample

theorem Indistinct.divRule (hst : s.st = .div) : Indistinct (divRule s) (divRule t) := by
  have hl := h.live
  simp only [SameLive, hst] at hl
  obtain ⟨hacc, hcount⟩ := hl
  exact h.respondIdle .ok (by rw [hacc, hcount])

theorem Indistinct.exec (hst : s.st = .idle) (i : Instr) : SameOutcome Indistinct (exec i s) (exec i t) := by
  have toIdle {f : State → State} (hv : ∀ u, Machine.visible (f u) = Machine.visible (f (Machine.visible u)))
      (hs : (f s).st = .idle) : SameOutcome Indistinct (.next (f s)) (.next (f t)) := by
    refine .next ⟨by rw [hv s, hv t, h.visible], ?_⟩
    simp only [SameLive, hs]
  cases i with
  | rdraw =>
    simp only [Machine.exec, execRdraw]
    by_cases hp : s.pwr = true
    · rw [if_pos hp, if_pos (h.pwr ▸ hp)]
      exact .fault _
    · rw [if_neg hp, if_neg (h.pwr ▸ hp)]
      exact .next ⟨congrArg (fun v => { v with st := .waitRdy }) h.visible, rfl, nofun⟩
  | rdavg c =>
    simp only [Machine.exec, execRdavg]
    by_cases hc : c = 0#16
    · rw [if_pos hc, if_pos hc]
      exact toIdle (f := failWith .preconditionViolation) (fun _ => rfl) hst
    · rw [if_neg hc, if_neg hc]
      by_cases hp : s.pwr = true
      · rw [if_pos hp, if_pos (h.pwr ▸ hp)]
        exact .fault _
      · rw [if_neg hp, if_neg (h.pwr ▸ hp)]
        exact .next ⟨congrArg (fun v => { v with st := .waitSlot }) h.visible, rfl, fun _ => ⟨rfl, rfl, rfl⟩⟩
  | setcg v => exact toIdle (f := fun u => respond .ok (zext32 v) { u with sel := v }) (fun _ => rfl) hst
  | getcg => exact toIdle (f := fun u => respond .ok (zext32 u.sel) u) (fun _ => rfl) hst
  | pwrdn => exact .next ⟨congrArg (fun v => { v with sck := false, st := .pdLo }) h.visible, rfl⟩
  | pwrup => exact toIdle (f := fun u => respond .ok 0#32 { u with sck := false, pwr := false }) (fun _ => rfl) hst

theorem Indistinct.idleRule (hst : s.st = .idle) (p : PortInputs) :
    SameOutcome Indistinct (idleRule Machine.exec p s) (idleRule Machine.exec p t) := by
  unfold Machine.idleRule
  split
  · split
    · exact h.exec hst _
    · refine .next ⟨(congrArg (failWith .illegalCommand) h.visible :), ?_⟩
      simp only [SameLive, failWith_st, hst]
  · exact .next h

theorem Indistinct.stateRule (p : PortInputs) :
    SameOutcome Indistinct (stateRule Machine.exec p s) (stateRule Machine.exec p t) := by
  unfold Machine.stateRule
  rw [← h.st]
  cases hst : s.st with
  | idle => exact h.idleRule hst p
  | waitSlot => exact .next (h.waitSlotRule hst p)
  | waitRdy => exact .next (h.waitRdyRule hst p)
  | bitHi => exact .next (h.duringPhase (by simp [hst]) (h.bitHiEnd hst p))
  | bitLo => exact .next (h.duringPhase (by simp [hst]) (h.bitLoEnd hst))
  | pulseHi => exact .next (h.duringPhase (by simp [hst]) (h.pulseHiEnd hst))
  | pulseLo => exact .next (h.duringPhase (by simp [hst]) (h.pulseLoEnd hst))
  | done => exact .next (h.doneRule hst)
  | div => exact .next (h.divRule hst)
  | pdLo =>
    refine .next (h.duringPhase (by simp [hst]) ?_)
    exact ⟨(congrArg (fun v => respond .ok 0#32 { v with sck := true, pwr := true, st := .idle }) h.visible :), trivial⟩

theorem Indistinct.step : SameOutcome Indistinct (step s) (step t) := by
  rw [step_eq s, step_eq t, ← h.portNow]
  split
  · exact .next ⟨(congrArg resetCycle h.visible :), trivial⟩
  · exact h.beginCycle.stateRule _

theorem Indistinct.runFor (n : Nat) : SameOutcome Indistinct (runFor n s) (runFor n t) := by
  induction n generalizing s t with
  | zero => exact .next h
  | succ n ih =>
    have hstep := h.step
    unfold Machine.runFor
    generalize Machine.step s = o, Machine.step t = o' at hstep
    cases hstep with
    | next h' => exact ih h'
    | fault r => exact .fault r
    | refused r => exact .refused r

end

/-- Settles O42: idle states that agree on the visible elements are indistinct, and stay so along their runs. -/
theorem unobservableElementsNeverReachAnOutput : Obligations.UnobservableElementsNeverReachAnOutput := by
  intro s t hs ht hsck hpwr hsel hrspv hrstat hrdata hinputs hcycle n
  have h : Indistinct s t := by
    refine ⟨?_, by simp only [SameLive, hs]⟩
    simp only [visible, hs, ht, hsck, hpwr, hsel, hrspv, hrstat, hrdata, hinputs, hcycle]
  have hrun := h.runFor n
  generalize runFor n s = o, runFor n t = o' at hrun ⊢
  cases hrun with
  | next h' => exact h'.outputs
  | fault => rfl
  | refused => rfl

end Sys2Proof.Machine
end

section
/-!
SUPPORT. Runs of the block: what time alone does to a state, waiting, and a phase of the clock line from its first cycle to its
end (R100, R105, R118).
-/

namespace Sys2Proof.Machine

/-! ### Time -/

/-- The state `n` cycles on when no rule has written anything. -/
def elapse (n : Nat) (s : State) : State :=
  { s with rspv := s.rspv && n == 0, inputs := s.inputs.drop n, cycle := s.cycle + n }

@[simp] theorem elapse_st (n : Nat) (s : State) : (elapse n s).st = s.st := rfl
@[simp] theorem elapse_sck (n : Nat) (s : State) : (elapse n s).sck = s.sck := rfl
@[simp] theorem elapse_pwr (n : Nat) (s : State) : (elapse n s).pwr = s.pwr := rfl
@[simp] theorem elapse_sel (n : Nat) (s : State) : (elapse n s).sel = s.sel := rfl
@[simp] theorem elapse_shift (n : Nat) (s : State) : (elapse n s).shift = s.shift := rfl
@[simp] theorem elapse_bitCnt (n : Nat) (s : State) : (elapse n s).bitCnt = s.bitCnt := rfl
@[simp] theorem elapse_pulseCnt (n : Nat) (s : State) : (elapse n s).pulseCnt = s.pulseCnt := rfl
@[simp] theorem elapse_holdCnt (n : Nat) (s : State) : (elapse n s).holdCnt = s.holdCnt := rfl
@[simp] theorem elapse_sample (n : Nat) (s : State) : (elapse n s).sample = s.sample := rfl
@[simp] theorem elapse_acc (n : Nat) (s : State) : (elapse n s).acc = s.acc := rfl
@[simp] theorem elapse_count (n : Nat) (s : State) : (elapse n s).count = s.count := rfl
@[simp] theorem elapse_remain (n : Nat) (s : State) : (elapse n s).remain = s.remain := rfl
@[simp] theorem elapse_avgMode (n : Nat) (s : State) : (elapse n s).avgMode = s.avgMode := rfl
@[simp] theorem elapse_rstat (n : Nat) (s : State) : (elapse n s).rstat = s.rstat := rfl
@[simp] theorem elapse_rdata (n : Nat) (s : State) : (elapse n s).rdata = s.rdata := rfl
@[simp] theorem elapse_inputs (n : Nat) (s : State) : (elapse n s).inputs = s.inputs.drop n := rfl
@[simp] theorem elapse_cycle (n : Nat) (s : State) : (elapse n s).cycle = s.cycle + n := rfl

@[simp] theorem elapse_zero (s : State) : elapse 0 s = s := by simp [elapse]

theorem beginCycle_elapse (n : Nat) (s : State) : beginCycle (elapse n s) = elapse (n + 1) s := by
  simp [beginCycle, elapse, Nat.add_assoc]

theorem portAt_elapse (n k : Nat) (s : State) : portAt (elapse n s) k = portAt s (n + k) := by
  simp [portAt, elapse, Nat.add_assoc]

theorem portNow_elapse (n : Nat) (s : State) : portNow (elapse n s) = portAt s n := portAt_elapse n 0 s

/-! ### Runs and the ports -/

/-- One more cycle at the end of a run. -/
theorem runFor_succ_last {s t : State} {n : Nat} (h : runFor n s = .next t) : runFor (n + 1) s = step t := by
  rw [runFor_add n 1 h, runFor]
  cases step t <;> rfl

/-- Every cycle, reset cycles too, moves on to the next inputs. -/
theorem StepCase.portAt_eq {s t : State} (h : StepCase s t) (k : Nat) : portAt t k = portAt s (k + 1) := by
  have henv : t.inputs = s.inputs.tail ∧ t.cycle = s.cycle + 1 := by cases h <;> exact ⟨rfl, rfl⟩
  rw [← portAt_beginCycle]
  exact portAt_congr henv.1 henv.2 k

theorem portAt_runFor {s t : State} {n : Nat} (h : runFor n s = .next t) (k : Nat) : portAt t k = portAt s (n + k) := by
  induction n generalizing s with
  | zero =>
    cases h
    rw [Nat.zero_add]
  | succ n ih =>
    cases hs : step s with
    | next u =>
      rw [runFor_succ_of_next n hs] at h
      rw [ih h, (step_cases hs).portAt_eq, Nat.add_right_comm]
    | fault r => simp [runFor, hs] at h
    | refused r => simp [runFor, hs] at h

theorem NoReset.mono {s : State} {m n : Nat} (h : NoReset s n) (hmn : m ≤ n) : NoReset s m :=
  fun k hk => h k (hk.trans_le hmn)

theorem NoReset.now {s : State} {n : Nat} (h : NoReset s n) (hn : 0 < n) : (portNow s).rst_i = false := h 0 hn

section
variable {s t : State} {n : Nat} (h : runFor n s = .next t)
include h

theorem NoReset.after {m : Nat} (hno : NoReset s (n + m)) : NoReset t m := by
  intro k hk
  rw [portAt_runFor h]
  exact hno (n + k) (by omega)

theorem FirstReady.after {a r : Nat} (hr : FirstReady s (n + a) (n + r)) : FirstReady t a r := by
  obtain ⟨hle, hwait, hready⟩ := hr
  refine ⟨by omega, fun k hk hkr => ?_, ?_⟩
  · rw [portAt_runFor h]
    exact hwait (n + k) (by omega) (by omega)
  · rw [portAt_runFor h, hready]

theorem FirstSlot.after {a r : Nat} (hr : FirstSlot s (n + a) (n + r)) : FirstSlot t a r := by
  obtain ⟨hle, hwait, hslot⟩ := hr
  refine ⟨by omega, fun k hk hkr => ?_, ?_⟩
  · rw [portAt_runFor h]
    exact hwait (n + k) (by omega) (by omega)
  · rw [portAt_runFor h, hslot]

theorem CarriesWord.after {r : Nat} {w : Raw} (hw : CarriesWord s (n + r) w) : CarriesWord t r w := by
  intro k hk
  rw [portAt_runFor h, ← Nat.add_assoc]
  exact hw k hk

end

/-! ### Waiting -/

/-- A state that every one of `n` cycles leaves alone is only older after them. -/
theorem runFor_of_waits {s : State} (n : Nat)
    (h : ∀ k < n, step (elapse k s) = .next (beginCycle (elapse k s))) : runFor n s = .next (elapse n s) := by
  induction n with
  | zero => rw [runFor_zero, elapse_zero]
  | succ n ih =>
    rw [runFor_succ_last (ih fun k hk => h k (by omega)), h n (by omega), beginCycle_elapse]

/-- R118: `WAIT_SLOT` waits while the slot is low. -/
theorem runFor_waitSlot {s : State} {n : Nat} (hst : s.st = .waitSlot) (hno : NoReset s n)
    (hwait : ∀ k < n, (portAt s k).slot_i = false) : runFor n s = .next (elapse n s) := by
  refine runFor_of_waits n fun k hk => ?_
  rw [step_of_waitSlot (by rw [portNow_elapse, hno k hk]) (by rw [elapse_st, hst]), waitSlotRule, portNow_elapse, hwait k hk]
  rfl

/-- R105: `WAIT_RDY` waits while the data line is high. -/
theorem runFor_waitRdy {s : State} {n : Nat} (hst : s.st = .waitRdy) (hno : NoReset s n)
    (hwait : ∀ k < n, (portAt s k).dout_i = true) : runFor n s = .next (elapse n s) := by
  refine runFor_of_waits n fun k hk => ?_
  rw [step_of_waitRdy (by rw [portNow_elapse, hno k hk]) (by rw [elapse_st, hst]), waitRdyRule, portNow_elapse, hwait k hk]
  rfl

/-- R118: the slot of cycle `n` ends the wait. -/
theorem runFor_slotSeen {s : State} {n : Nat} (hst : s.st = .waitSlot) (hno : NoReset s (n + 1))
    (hslot : FirstSlot s 0 n) : runFor (n + 1) s = .next { elapse (n + 1) s with st := .waitRdy } := by
  obtain ⟨-, hwait, hseen⟩ := hslot
  rw [runFor_succ_last (runFor_waitSlot hst (hno.mono (by omega)) fun k hk => hwait k (Nat.zero_le k) hk),
    step_of_waitSlot (by rw [portNow_elapse, hno n (by omega)]) (by rw [elapse_st, hst]), waitSlotRule, portNow_elapse,
    hseen, beginCycle_elapse]
  rfl

/-- R105: the data-ready of cycle `n` starts the first data pulse. -/
theorem runFor_readySeen {s : State} {n : Nat} (hst : s.st = .waitRdy) (hno : NoReset s (n + 1))
    (hready : FirstReady s 0 n) :
    runFor (n + 1) s = .next { startPhase true (elapse (n + 1) s) with bitCnt := 0#5, st := .bitHi } := by
  obtain ⟨-, hwait, hseen⟩ := hready
  rw [runFor_succ_last (runFor_waitRdy hst (hno.mono (by omega)) fun k hk => hwait k (Nat.zero_le k) hk),
    step_of_waitRdy (by rw [portNow_elapse, hno n (by omega)]) (by rw [elapse_st, hst]), waitRdyRule, portNow_elapse,
    hseen, beginCycle_elapse]
  rfl

/-! ### Phases -/

/-- R100: while `HOLDCNT` is not 0 a timed state counts it down and changes nothing else. -/
theorem step_of_counting {s : State} (hr : (portNow s).rst_i = false)
    (hst : s.st ∈ [SeqState.bitHi, .bitLo, .pulseHi, .pulseLo, .pdLo]) (hc : s.holdCnt ≠ 0#_) :
    step s = .next { beginCycle s with holdCnt := s.holdCnt - 1#_ } := by
  simp only [List.mem_cons, List.not_mem_nil, or_false] at hst
  rw [step_of_running hr, stateRule, beginCycle_st]
  rcases hst with hst | hst | hst | hst | hst <;> rw [hst] <;>
    exact congrArg Host.Outcome.next (duringPhase_counting _ (beginCycle s) hc)

/-- R100: `n` cycles into a phase, `HOLDCNT` has gone down by `n` and nothing else has changed. -/
theorem runFor_counting {s : State} {n : Nat} (hst : s.st ∈ [SeqState.bitHi, .bitLo, .pulseHi, .pulseLo, .pdLo])
    (hno : NoReset s n) (hn : n ≤ s.holdCnt.toNat) :
    ∃ c : HoldCount, c.toNat = s.holdCnt.toNat - n ∧ runFor n s = .next (elapse n { s with holdCnt := c }) := by
  induction n with
  | zero => exact ⟨s.holdCnt, rfl, by rw [elapse_zero, runFor_zero]⟩
  | succ n ih =>
    obtain ⟨c, hc, hrun⟩ := ih (hno.mono (by omega)) (by omega)
    have hne : c ≠ 0#_ := by
      rintro rfl
      rw [BitVec.toNat_ofNat, Nat.zero_mod] at hc
      omega
    refine ⟨c - 1#_, by rw [holdCount_sub_one_toNat c hne]; omega, ?_⟩
    have hnow : portNow (elapse n { s with holdCnt := c }) = portAt s n := portNow_elapse n _
    rw [runFor_succ_last hrun, step_of_counting (by rw [hnow, hno n (by omega)]) (by rwa [elapse_st]) hne, beginCycle_elapse]
    rfl

/-- The state in which the end-of-phase action of a phase that starts in `s` is done. -/
def phaseOver (s : State) : State := elapse Config.hold { s with holdCnt := 0#_ }

@[simp] theorem phaseOver_st (s : State) : (phaseOver s).st = s.st := rfl

theorem duringPhase_phaseOver (f : State → State) (s : State) : duringPhase f (phaseOver s) = f (phaseOver s) :=
  duringPhase_ending f (phaseOver s) rfl

/-- R100: a phase that starts with `HOLDCNT = HOLD − 1` runs its end-of-phase action in its cycle number `HOLD`. -/
theorem runFor_phase {s : State} (hst : s.st ∈ [SeqState.bitHi, .bitLo, .pulseHi, .pulseLo, .pdLo])
    (hload : s.holdCnt = holdReload) (hno : NoReset s Config.hold) :
    runFor Config.hold s = stateRule exec (portAt s (Config.hold - 1)) (phaseOver s) := by
  have hpos := hold_pos
  obtain ⟨c, hc, hrun⟩ := runFor_counting hst (hno.mono (Nat.sub_le _ 1)) (by rw [hload, holdReload_toNat])
  obtain rfl : c = 0#_ := by
    apply BitVec.eq_of_toNat_eq
    rw [hc, hload, holdReload_toNat]
    simp
  have hnow : portNow (elapse (Config.hold - 1) { s with holdCnt := 0#_ }) = portAt s (Config.hold - 1) := portNow_elapse _ _
  have hlast := runFor_succ_last hrun
  rw [step_of_running (by rw [hnow, hno _ (by omega)]), hnow, beginCycle_elapse, Nat.sub_add_cancel hpos] at hlast
  exact hlast

section
variable {s : State} (hload : s.holdCnt = holdReload) (hno : NoReset s Config.hold)
include hload hno

theorem runFor_bitHi (hst : s.st = .bitHi) :
    runFor Config.hold s = .next (bitHiEnd (portAt s (Config.hold - 1)) (phaseOver s)) := by
  rw [runFor_phase (by simp [hst]) hload hno, stateRule, phaseOver_st, hst]
  exact congrArg Host.Outcome.next (duringPhase_phaseOver _ s)

theorem runFor_bitLo (hst : s.st = .bitLo) : runFor Config.hold s = .next (bitLoEnd (phaseOver s)) := by
  rw [runFor_phase (by simp [hst]) hload hno, stateRule, phaseOver_st, hst]
  exact congrArg Host.Outcome.next (duringPhase_phaseOver _ s)

theorem runFor_pulseHi (hst : s.st = .pulseHi) : runFor Config.hold s = .next (pulseHiEnd (phaseOver s)) := by
  rw [runFor_phase (by simp [hst]) hload hno, stateRule, phaseOver_st, hst]
  exact congrArg Host.Outcome.next (duringPhase_phaseOver _ s)

theorem runFor_pulseLo (hst : s.st = .pulseLo) : runFor Config.hold s = .next (pulseLoEnd (phaseOver s)) := by
  rw [runFor_phase (by simp [hst]) hload hno, stateRule, phaseOver_st, hst]
  exact congrArg Host.Outcome.next (duringPhase_phaseOver _ s)

end

end Sys2Proof.Machine
end

section
/-!
SUPPORT. One frame, from the wait for data-ready to `DONE` (`41_readout.md` R114): where each data pulse and each selector pulse
starts, what has been shifted in by then, and the registers a frame leaves alone.
-/

namespace Sys2Proof.Machine

/-! ### What a frame leaves alone -/

/-- The registers no state of a frame writes: the state with the others blanked. -/
def outsideFrame (s : State) : State :=
  { s with
    st := .idle, sck := false, shift := 0#24, bitCnt := 0#5, pulseCnt := 0#2, holdCnt := 0#_, sample := 0#32,
    rspv := false, inputs := [], cycle := 0 }

section
variable {s t : State} (h : outsideFrame t = outsideFrame s)
include h

theorem pwr_of_outsideFrame : t.pwr = s.pwr := (congrArg State.pwr h :)
theorem sel_of_outsideFrame : t.sel = s.sel := (congrArg State.sel h :)
theorem avgMode_of_outsideFrame : t.avgMode = s.avgMode := (congrArg State.avgMode h :)
theorem acc_of_outsideFrame : t.acc = s.acc := (congrArg State.acc h :)
theorem count_of_outsideFrame : t.count = s.count := (congrArg State.count h :)
theorem remain_of_outsideFrame : t.remain = s.remain := (congrArg State.remain h :)

end

/-! ### The phases of a frame -/

/-- The last `n` bits shifted in are the first `n` of the word `w`, bit 23 first (R57). -/
def ReadBits (w : Raw) (n : Nat) (shift : Raw) : Prop := ∀ i < n, shift.getLsbD i = w.getLsbD (24 - n + i)

theorem readBits_zero (w shift : Raw) : ReadBits w 0 shift := fun _ h => absurd h (Nat.not_lt_zero _)

theorem ReadBits.shiftIn {w shift : Raw} {n : Nat} (h : ReadBits w n shift) (hn : n < 24) :
    ReadBits w (n + 1) (shiftIn shift (w.getLsbD (23 - n))) := by
  intro i hi
  rw [shiftIn_getLsbD _ _ i (by omega)]
  split
  case isTrue h0 => rw [h0, show 24 - (n + 1) + 0 = 23 - n by omega]
  case isFalse h0 => rw [h (i - 1) (by omega), show 24 - n + (i - 1) = 24 - (n + 1) + i by omega]

theorem ReadBits.eq {w shift : Raw} (h : ReadBits w 24 shift) : shift = w :=
  BitVec.eq_of_getLsbD_eq fun i hi => by rw [h i hi, show 24 - 24 + i = i by omega]

/-- `t` is the first cycle of a phase of data pulse `k` of a frame of the word `w`, the high one or the low one, with `n` bits
read; the frame started in `s`. -/
structure AtDataPhase (s : State) (w : Raw) (level : Bool) (k n : Nat) (t : State) : Prop where
  st : t.st = bif level then .bitHi else .bitLo
  sck : t.sck = level
  holdCnt : t.holdCnt = holdReload
  bitCnt : t.bitCnt.toNat = k
  bits : ReadBits w n t.shift
  kept : outsideFrame t = outsideFrame s

/-- `t` is the first cycle of a phase of selector pulse `j` of a frame that has read the word `w`. -/
structure AtSelectorPhase (s : State) (w : Raw) (level : Bool) (j : Nat) (t : State) : Prop where
  st : t.st = bif level then .pulseHi else .pulseLo
  sck : t.sck = level
  holdCnt : t.holdCnt = holdReload
  pulseCnt : t.pulseCnt.toNat = pulses s.sel - 1 - j
  shift : t.shift = w
  sample : t.sample = sext32 w
  kept : outsideFrame t = outsideFrame s

/-- `t` is the state `DONE` of a frame that has read the word `w`. -/
structure AtDone (s : State) (w : Raw) (t : State) : Prop where
  st : t.st = .done
  sck : t.sck = false
  shift : t.shift = w
  sample : t.sample = sext32 w
  kept : outsideFrame t = outsideFrame s

section
variable {s t : State} {w : Raw} {k j : Nat}

/-- R106: the high phase of a data pulse ends with the sample of its bit. -/
theorem AtDataPhase.fall (h : AtDataPhase s w true k k t) (hk : k < 24) (hno : NoReset t Config.hold)
    (hbit : (portAt t (Config.hold - 1)).dout_i = w.getLsbD (23 - k)) :
    ∃ u, runFor Config.hold t = .next u ∧ AtDataPhase s w false k (k + 1) u := by
  have hbits := h.bits.shiftIn hk
  rw [← hbit] at hbits
  exact ⟨_, runFor_bitHi h.holdCnt hno h.st, rfl, rfl, rfl, h.bitCnt, hbits, h.kept⟩

/-- R107: the low phase of a data pulse but the last ends with the next pulse. -/
theorem AtDataPhase.rise (h : AtDataPhase s w false k (k + 1) t) (hk : k < 23) (hno : NoReset t Config.hold) :
    ∃ u, runFor Config.hold t = .next u ∧ AtDataPhase s w true (k + 1) (k + 1) u := by
  have hcnt := h.bitCnt
  have hne : t.bitCnt ≠ 23#5 := by bv_omega
  have hnext : (t.bitCnt + 1#5).toNat = k + 1 := by bv_omega
  refine ⟨_, runFor_bitLo h.holdCnt hno h.st, ?_⟩
  rw [bitLoEnd, if_pos (show (phaseOver t).bitCnt ≠ 23#5 from hne)]
  exact ⟨rfl, rfl, rfl, hnext, h.bits, h.kept⟩

/-- R107, R113: with no selector pulse the low phase of the last data pulse ends the frame. -/
theorem AtDataPhase.finish (h : AtDataPhase s w false 23 24 t) (hp : pulses s.sel = 0) (hno : NoReset t Config.hold) :
    ∃ u, runFor Config.hold t = .next u ∧ AtDone s w u := by
  have hcnt : t.bitCnt = 23#5 := BitVec.eq_of_toNat_eq h.bitCnt
  have hsel : pulses t.sel = 0 := by rw [sel_of_outsideFrame h.kept, hp]
  refine ⟨_, runFor_bitLo h.holdCnt hno h.st, ?_⟩
  rw [bitLoEnd, if_neg (show ¬(phaseOver t).bitCnt ≠ 23#5 from not_not.mpr hcnt),
    if_pos (show pulses (phaseOver t).sel = 0 from hsel)]
  exact ⟨rfl, h.sck, h.bits.eq, congrArg sext32 h.bits.eq, h.kept⟩

/-- R107: else it ends with the first selector pulse. -/
theorem AtDataPhase.riseToSelector (h : AtDataPhase s w false 23 24 t) (hp : pulses s.sel ≠ 0)
    (hno : NoReset t Config.hold) : ∃ u, runFor Config.hold t = .next u ∧ AtSelectorPhase s w true 0 u := by
  have hcnt : t.bitCnt = 23#5 := BitVec.eq_of_toNat_eq h.bitCnt
  have hsel : t.sel = s.sel := sel_of_outsideFrame h.kept
  refine ⟨_, runFor_bitLo h.holdCnt hno h.st, ?_⟩
  rw [bitLoEnd, if_neg (show ¬(phaseOver t).bitCnt ≠ 23#5 from not_not.mpr hcnt),
    if_neg (show ¬pulses (phaseOver t).sel = 0 from hsel ▸ hp)]
  exact ⟨rfl, rfl, rfl, hsel ▸ pulsesAfterFirst_toNat t.sel, h.bits.eq, congrArg sext32 h.bits.eq, h.kept⟩

/-- R108: the high phase of a selector pulse ends with its low phase. -/
theorem AtSelectorPhase.fall (h : AtSelectorPhase s w true j t) (hno : NoReset t Config.hold) :
    ∃ u, runFor Config.hold t = .next u ∧ AtSelectorPhase s w false j u :=
  ⟨_, runFor_pulseHi h.holdCnt hno h.st, rfl, rfl, rfl, h.pulseCnt, h.shift, h.sample, h.kept⟩

/-- R109: the low phase of a selector pulse but the last ends with the next pulse. -/
theorem AtSelectorPhase.rise (h : AtSelectorPhase s w false j t) (hj : j + 1 < pulses s.sel)
    (hno : NoReset t Config.hold) : ∃ u, runFor Config.hold t = .next u ∧ AtSelectorPhase s w true (j + 1) u := by
  have hcnt := h.pulseCnt
  have hne : t.pulseCnt ≠ 0#2 := by bv_omega
  have hnext : (t.pulseCnt - 1#2).toNat = pulses s.sel - 1 - (j + 1) := by bv_omega
  refine ⟨_, runFor_pulseLo h.holdCnt hno h.st, ?_⟩
  rw [pulseLoEnd, if_pos (show (phaseOver t).pulseCnt ≠ 0#2 from hne)]
  exact ⟨rfl, rfl, rfl, hnext, h.shift, h.sample, h.kept⟩

/-- R109: the low phase of the last selector pulse ends the frame. -/
theorem AtSelectorPhase.finish (h : AtSelectorPhase s w false j t) (hj : j + 1 = pulses s.sel)
    (hno : NoReset t Config.hold) : ∃ u, runFor Config.hold t = .next u ∧ AtDone s w u := by
  have hcnt : t.pulseCnt = 0#2 := BitVec.eq_of_toNat_eq (h.pulseCnt.trans (show pulses s.sel - 1 - j = 0 by omega))
  refine ⟨_, runFor_pulseLo h.holdCnt hno h.st, ?_⟩
  rw [pulseLoEnd, if_neg (show ¬(phaseOver t).pulseCnt ≠ 0#2 from not_not.mpr hcnt)]
  exact ⟨rfl, h.sck, h.shift, h.sample, h.kept⟩

end

/-! ### The frame -/

section
variable {s : State} {r : Nat} {w : Raw} (hst : s.st = .waitRdy) (hno : NoReset s (r + 1 + frameCycles s.sel))
  (hready : FirstReady s 0 r) (hw : CarriesWord s r w)

/-- One phase of the frame after another: phase `i` starts `i · HOLD` cycles after the first data pulse rises. -/
theorem runFor_nextPhase {t : State} {i : Nat} (hno : NoReset s (r + 1 + frameCycles s.sel))
    (hrun : runFor (r + 1 + i * Config.hold) s = .next t) (hi : i < 2 * (24 + pulses s.sel)) :
    NoReset t Config.hold ∧
      ∀ {u}, runFor Config.hold t = .next u → runFor (r + 1 + (i + 1) * Config.hold) s = .next u := by
  have hend : (i + 1) * Config.hold ≤ frameCycles s.sel := Nat.mul_le_mul_right _ hi
  rw [Nat.succ_mul, ← Nat.add_assoc] at *
  exact ⟨(hno.mono (by omega)).after hrun, fun h => (runFor_add _ _ hrun).trans h⟩

include hw in
/-- R106, R114: the data line carries bit `23 − k` in the last cycle of the high phase of data pulse `k`. -/
theorem dout_of_dataPulse {t : State} {k : Nat} (hrun : runFor (r + 1 + 2 * k * Config.hold) s = .next t) (hk : k < 24) :
    (portAt t (Config.hold - 1)).dout_i = w.getLsbD (23 - k) := by
  have hpos := hold_pos
  rw [portAt_runFor hrun, ← hw k hk, Nat.succ_mul (2 * k)]
  congr 2
  omega

include hst hno hready hw

/-- R114: data pulse `k` rises `2k · HOLD` cycles after the first. -/
theorem frame_dataHigh {k : Nat} (hk : k < 24) :
    ∃ t, runFor (r + 1 + 2 * k * Config.hold) s = .next t ∧ AtDataPhase s w true k k t := by
  induction k with
  | zero =>
    rw [Nat.mul_zero, Nat.zero_mul]
    exact ⟨_, runFor_readySeen hst (hno.mono (by omega)) hready, rfl, rfl, rfl, rfl, readBits_zero w _, rfl⟩
  | succ k ih =>
    obtain ⟨t, hrun, ht⟩ := ih (by omega)
    obtain ⟨hno₁, hnext₁⟩ := runFor_nextPhase hno hrun (by omega)
    obtain ⟨u, hu, hlow⟩ := ht.fall (by omega) hno₁ (dout_of_dataPulse hw hrun (by omega))
    obtain ⟨hno₂, hnext₂⟩ := runFor_nextPhase hno (hnext₁ hu) (by omega)
    obtain ⟨v, hv, hhigh⟩ := hlow.rise (by omega) hno₂
    exact ⟨v, hnext₂ hv, hhigh⟩

/-- R114: and falls `HOLD` cycles later. -/
theorem frame_dataLow {k : Nat} (hk : k < 24) :
    ∃ t, runFor (r + 1 + (2 * k + 1) * Config.hold) s = .next t ∧ AtDataPhase s w false k (k + 1) t := by
  obtain ⟨t, hrun, ht⟩ := frame_dataHigh hst hno hready hw hk
  obtain ⟨hno₁, hnext₁⟩ := runFor_nextPhase hno hrun (by omega)
  obtain ⟨u, hu, hlow⟩ := ht.fall hk hno₁ (dout_of_dataPulse hw hrun hk)
  exact ⟨u, hnext₁ hu, hlow⟩

/-- R114: selector pulse `j` rises after the 24 data pulses and `j` selector pulses. -/
theorem frame_selectorHigh {j : Nat} (hj : j < pulses s.sel) :
    ∃ t, runFor (r + 1 + 2 * (24 + j) * Config.hold) s = .next t ∧ AtSelectorPhase s w true j t := by
  induction j with
  | zero =>
    obtain ⟨t, hrun, ht⟩ := frame_dataLow hst hno hready hw (show 23 < 24 by omega)
    obtain ⟨hno₁, hnext₁⟩ := runFor_nextPhase hno hrun (by omega)
    obtain ⟨u, hu, hhigh⟩ := ht.riseToSelector (by omega) hno₁
    exact ⟨u, hnext₁ hu, hhigh⟩
  | succ j ih =>
    obtain ⟨t, hrun, ht⟩ := ih (by omega)
    obtain ⟨hno₁, hnext₁⟩ := runFor_nextPhase hno hrun (by omega)
    obtain ⟨u, hu, hlow⟩ := ht.fall hno₁
    obtain ⟨hno₂, hnext₂⟩ := runFor_nextPhase hno (hnext₁ hu) (by omega)
    obtain ⟨v, hv, hhigh⟩ := hlow.rise hj hno₂
    exact ⟨v, hnext₂ hv, hhigh⟩

/-- R114: and falls `HOLD` cycles later. -/
theorem frame_selectorLow {j : Nat} (hj : j < pulses s.sel) :
    ∃ t, runFor (r + 1 + (2 * (24 + j) + 1) * Config.hold) s = .next t ∧ AtSelectorPhase s w false j t := by
  obtain ⟨t, hrun, ht⟩ := frame_selectorHigh hst hno hready hw hj
  obtain ⟨hno₁, hnext₁⟩ := runFor_nextPhase hno hrun (by omega)
  obtain ⟨u, hu, hlow⟩ := ht.fall hno₁
  exact ⟨u, hnext₁ hu, hlow⟩

/-- R114: the frame is over, its word read, after its 24 data pulses and the pulses of the selector. -/
theorem frame_done : ∃ t, runFor (r + 1 + frameCycles s.sel) s = .next t ∧ AtDone s w t := by
  unfold frameCycles
  cases hp : pulses s.sel with
  | zero =>
    obtain ⟨t, hrun, ht⟩ := frame_dataLow hst hno hready hw (show 23 < 24 by omega)
    obtain ⟨hno₁, hnext₁⟩ := runFor_nextPhase hno hrun (by omega)
    obtain ⟨u, hu, hdone⟩ := ht.finish hp hno₁
    exact ⟨u, hnext₁ hu, hdone⟩
  | succ j =>
    obtain ⟨t, hrun, ht⟩ := frame_selectorLow hst hno hready hw (show j < pulses s.sel by omega)
    obtain ⟨hno₁, hnext₁⟩ := runFor_nextPhase hno hrun (by omega)
    obtain ⟨u, hu, hdone⟩ := ht.finish hp.symm hno₁
    exact ⟨u, hnext₁ hu, hdone⟩

end

end Sys2Proof.Machine
end

section
/-!
SUPPORT. The averaged read (`42_average.md`) sample by sample: from the wait for one slot to the wait for the next, or to the
division after the last.
-/

namespace Sys2Proof.Machine

/-- The exact sum of the first `j` words (R54 v). -/
def sumOfWords (w : Nat → Raw) (j : Nat) : Int := ((List.range j).map fun i => (w i).toInt).sum

theorem sumOfWords_succ (w : Nat → Raw) (j : Nat) : sumOfWords w (j + 1) = sumOfWords w j + (w j).toInt := by
  simp [sumOfWords, List.range_succ]

/-- `t` is the state of an `RDAVG c` accepted in `s` in which `j` samples are added: the wait for the slot of the next one, or the
division after all of them. -/
structure AfterSamples (s : State) (c : Count) (w : Nat → Raw) (j : Nat) (t : State) : Prop where
  st : t.st = if j = c.toNat then .div else .waitSlot
  /-- R54 i; before the first sample the line is as it was at acceptance. -/
  sck : 0 < j ∨ s.sck = false → t.sck = false
  avgMode : t.avgMode = true
  acc : t.acc.toInt = sumOfWords w j
  within : accWithin t.acc j
  count : t.count = c
  remain : t.remain.toNat = c.toNat - j
  sel : t.sel = s.sel
  pwr : t.pwr = s.pwr

/-- R117: acceptance, with no sample added. -/
theorem afterSamples_accepted {s : State} {c : Count} (w : Nat → Raw) (hst : s.st = .idle) (hpwr : s.pwr = false)
    (hr : (portNow s).rst_i = false) (hv : (portNow s).cmd_valid_i = true)
    (hd : decode (portNow s).cmd_word_i = .ok (.rdavg c)) (hc : 1 ≤ c.toNat) :
    ∃ t, runFor 1 s = .next t ∧ AfterSamples s c w 0 t := by
  have hne : c ≠ 0#16 := by bv_omega
  have hstep : step s = .next { beginCycle s with avgMode := true, count := c, remain := c, acc := 0#40, st := .waitSlot } := by
    rw [step_of_idle hr hst, idleRule, if_pos hv, hd]
    simp only [exec, execRdavg, if_neg hne, beginCycle_pwr, hpwr]
    rfl
  refine ⟨_, (runFor_succ_of_next 0 hstep).trans (runFor_zero _), ?_⟩
  exact ⟨(if_neg (by omega)).symm, fun h => h.resolve_left (lt_irrefl 0), rfl, rfl, accWithin_zero, rfl, rfl, rfl, rfl⟩

/-- R119: `DONE` of an average adds its sample, and goes on to the next slot or to the division. -/
theorem AtDone.accumulates {s t d : State} {c : Count} {w : Nat → Raw} {j : Nat} (ht : AfterSamples s c w j t)
    (hj : j < c.toNat) (hd : AtDone t (w j) d) (hr : (portNow d).rst_i = false) :
    ∃ u, step d = .next u ∧ AfterSamples s c w (j + 1) u := by
  have havg : d.avgMode = true := (avgMode_of_outsideFrame hd.kept).trans ht.avgMode
  have hacc : d.acc = t.acc := acc_of_outsideFrame hd.kept
  have hrem : d.remain.toNat = c.toNat - j := by rw [remain_of_outsideFrame hd.kept, ht.remain]
  have hrange := sext32_toInt_range (w j)
  have hcount := c.isLt
  have hsum : (accumulate d.acc d.sample).toInt = sumOfWords w (j + 1) := by
    rw [hacc, hd.sample, accumulate_toInt ht.within (by omega) hrange, ht.acc, sext32_toInt, sumOfWords_succ]
  have hwithin : accWithin (accumulate d.acc d.sample) (j + 1) := by
    rw [hacc, hd.sample]
    exact accWithin_accumulate ht.within (by omega) hrange
  have hlast : d.remain = 1#16 ↔ j + 1 = c.toNat := by
    rw [← BitVec.toNat_inj, hrem, show (1#16).toNat = 1 from rfl]
    omega
  refine ⟨_, step_of_done hr hd.st, ?_⟩
  rw [doneRule, if_pos (show (beginCycle d).avgMode = true from havg)]
  exact {
    st := if_congr hlast rfl rfl
    sck := fun _ => hd.sck
    avgMode := havg
    acc := hsum
    within := hwithin
    count := (count_of_outsideFrame hd.kept).trans ht.count
    remain := by
      show (d.remain - 1#16).toNat = _
      bv_omega
    sel := (sel_of_outsideFrame hd.kept).trans ht.sel
    pwr := (pwr_of_outsideFrame hd.kept).trans ht.pwr }

/-- R115, R118, R119: one sample of the read, from the wait for its slot in cycle `n` on: its slot comes in cycle `p`, its
data-ready in cycle `r`. -/
theorem AfterSamples.nextSample {s t : State} {c : Count} {w : Nat → Raw} {j n p r : Nat} (ht : AfterSamples s c w j t)
    (hj : j < c.toNat) (hrun : runFor n s = .next t) (hslot : FirstSlot s n p) (hready : FirstReady s (p + 1) r)
    (hw : CarriesWord s r (w j)) (hno : NoReset s (r + 2 + frameCycles s.sel)) :
    ∃ u, runFor (r + 2 + frameCycles s.sel) s = .next u ∧ AfterSamples s c w (j + 1) u := by
  obtain ⟨p, rfl⟩ := Nat.exists_eq_add_of_le hslot.1
  obtain ⟨r, rfl⟩ := Nat.exists_eq_add_of_le hready.1
  have hwait : t.st = .waitSlot := by rw [ht.st, if_neg hj.ne]
  have hseen := runFor_slotSeen hwait ((hno.mono (by omega)).after hrun) (FirstSlot.after (a := 0) hrun hslot)
  have hrdy := (runFor_add n (p + 1) hrun).trans hseen
  have hnoFrame : NoReset _ (r + 1 + frameCycles t.sel) := (hno.mono (by rw [ht.sel]; omega)).after hrdy
  obtain ⟨d, hd, hdone⟩ := frame_done rfl hnoFrame (FirstReady.after (a := 0) hrdy hready) (CarriesWord.after hrdy hw)
  have hframe := (runFor_add _ _ hrdy).trans hd
  have hlen : n + (p + 1) + (r + 1 + frameCycles t.sel) + 1 = n + p + 1 + r + 2 + frameCycles s.sel := by
    rw [ht.sel]
    omega
  have hdone' : AtDone t (w j) d := ⟨hdone.st, hdone.sck, hdone.shift, hdone.sample, hdone.kept⟩
  obtain ⟨u, hu, hafter⟩ := hdone'.accumulates ht hj (NoReset.now ((hno.mono hlen.le).after hframe) Nat.one_pos)
  exact ⟨u, hlen ▸ (runFor_succ_last hframe).trans hu, hafter⟩

/-- A sequence that does not go down before `c` is largest at `c`. -/
theorem le_of_steps_le {start : Nat → Nat} {c j : Nat} (hstep : ∀ i < c, start i ≤ start (i + 1)) (hj : j ≤ c) :
    start j ≤ start c := by
  induction c, hj using Nat.le_induction with
  | base => exact le_rfl
  | succ n hn ih => exact (ih fun i hi => hstep i (by omega)).trans (hstep n (by omega))

/-- R115 to R119, R127: after `j` samples, each with its slot, its data-ready and its word, `RDAVG` waits for the next slot or
divides, `ACC` holding the exact sum of the words. -/
theorem runFor_samples {s : State} {c : Count} {start slot ready : Nat → Nat} {w : Nat → Raw}
    (hst : s.st = .idle) (hpwr : s.pwr = false) (hv : (portNow s).cmd_valid_i = true)
    (hd : decode (portNow s).cmd_word_i = .ok (.rdavg c)) (hc : 1 ≤ c.toNat) (hstart : start 0 = 1)
    (hsamples : ∀ j < c.toNat, FirstSlot s (start j) (slot j) ∧ FirstReady s (slot j + 1) (ready j) ∧
      CarriesWord s (ready j) (w j) ∧ start (j + 1) = ready j + 2 + frameCycles s.sel)
    (hno : NoReset s (start c.toNat)) {j : Nat} (hj : j ≤ c.toNat) :
    ∃ t, runFor (start j) s = .next t ∧ AfterSamples s c w j t := by
  have hmono : ∀ i < c.toNat, start i ≤ start (i + 1) := by
    intro i hi
    obtain ⟨⟨hslot, -⟩, ⟨hready, -⟩, -, hnext⟩ := hsamples i hi
    omega
  induction j with
  | zero =>
    have hpos : 0 < start c.toNat := by
      have := le_of_steps_le hmono (Nat.zero_le c.toNat)
      omega
    rw [hstart]
    exact afterSamples_accepted w hst hpwr (hno.now hpos) hv hd hc
  | succ j ih =>
    obtain ⟨t, hrun, ht⟩ := ih (by omega)
    obtain ⟨hslot, hready, hw, hnext⟩ := hsamples j hj
    rw [hnext]
    exact ht.nextSample hj hrun hslot hready hw (hno.mono (hnext ▸ le_of_steps_le hmono hj))

/-- Settles O59, by induction on the samples. -/
theorem averagedReadSumsTheSamplesSoFar : Obligations.AveragedReadSumsTheSamplesSoFar := by
  intro s c start slot ready w hst hpwr hsck hv hd hc hstart hsamples hno j hj
  obtain ⟨t, hrun, ht⟩ := runFor_samples hst hpwr hv hd hc hstart hsamples hno hj
  exact ⟨t, hrun, ht.st, ht.sck (.inr hsck), ht.avgMode, ht.acc, ht.count, ht.remain⟩

end Sys2Proof.Machine
end

section
/-!
SUPPORT. The device by itself (`20_memory.md` section 5): what the clock line and the end of a cycle do to its phase, the
undefined state that only a power-down leaves, and the timing contract in cycles.
-/

namespace Sys2Proof.Machine

/-! ### A cycle of the closed system -/

/-- A cycle of the closed system is a cycle of the block, with the device's line, and then one of the device (R82). -/
theorem closedStep_cases {p : PortInputs} {d : AdcDraw} {c c' : ClosedState} (h : closedStep p d c = .next c') :
    ∃ s t : State, c' = { block := t, adc := adcAfter d s t (adcSees c.block.sck c.adc) } := by
  simp only [closedStep] at h
  split at h
  · cases h
    exact ⟨_, _, rfl⟩
  · cases h
  · cases h

/-- R77, R78: only a conversion in progress ends. -/
theorem adcConverts_of_ne_converting {a : Adc} (d : AdcDraw) (h : a.phase ≠ .converting) : adcConverts d a = a := by
  unfold adcConverts
  split
  · contradiction
  · rfl

/-! ### The undefined state -/

/-- R81: the end of a cycle, a complete frame of the block included, does not bring a lost device back. -/
theorem adcAfter_lost {a : Adc} (d : AdcDraw) (s s' : State) (h : a.phase = .lost) : (adcAfter d s s' a).phase = .lost := by
  unfold adcAfter
  split
  · rfl
  · split
    · simp [adcStarts, h]
    · rw [adcConverts_of_ne_converting d (by simp [h]), h]

/-- R79, R165: nor does it wake a device in low-power mode. -/
theorem adcAfter_poweredDown {a : Adc} (d : AdcDraw) (s s' : State) (h : a.phase = .poweredDown) :
    (adcAfter d s s' a).phase = .lost ∨ (adcAfter d s s' a).phase = .poweredDown := by
  unfold adcAfter
  split
  · exact .inl rfl
  · right
    split
    · simp [adcStarts, h]
    · rw [adcConverts_of_ne_converting d (by simp [h]), h]

/-- R79, R81: the clock line takes a lost device to low-power mode or nowhere. -/
theorem adcSees_lost {a : Adc} (sck : Bool) (h : a.phase = .lost) :
    (adcSees sck a).phase = if sck = true ∧ a.pdCycles < a.highFor + 1 then .poweredDown else .lost := by
  cases sck with
  | false => simp [adcSees, phaseAfter, h]
  | true => by_cases hpd : a.pdCycles < a.highFor + 1 <;> simp [adcSees, phaseAfter, h, hpd, risingEdge]

/-- Settles O60: what the device sees keeps it lost or powers it down, and the end of the cycle brings neither back. -/
theorem lostDeviceIsLeftOnlyByAPowerDown : Obligations.LostDeviceIsLeftOnlyByAPowerDown := by
  intro c c' p d hlost hstep
  obtain ⟨s, t, rfl⟩ := closedStep_cases hstep
  have hsees := adcSees_lost c.block.sck hlost
  by_cases hpd : c.block.sck = true ∧ c.adc.pdCycles < c.adc.highFor + 1
  · rw [if_pos hpd] at hsees
    exact ⟨(adcAfter_poweredDown d s t hsees).imp_right fun h => ⟨h, hpd⟩, fun hnot => absurd hpd hnot⟩
  · rw [if_neg hpd] at hsees
    have hstays := adcAfter_lost d s t hsees
    exact ⟨.inl hstays, fun _ => ⟨hstays, by simp [adcLine, hsees]⟩⟩

/-! ### The timing contract -/

/-- Settles O55: the contract's two inequalities, divided out. -/
theorem phasesSuitTheDevice : Obligations.PhasesSuitTheDevice := by
  rintro fClkHz tPdMinNs ⟨-, hsettle, hpd⟩
  constructor
  · unfold Config.settleCyclesAt
    omega
  · exact (Nat.le_div_iff_mul_le (by decide)).mpr hpd.le

end Sys2Proof.Machine
end

section
/-!
SUPPORT. Bounded liveness of `RDRAW` (`60_exceptions.md` R144): a busy block shows no response, becomes idle only with one, and
a frame ends whatever word the data line carries.
-/

namespace Sys2Proof.Machine

/-- R99: a response is shown in `IDLE` only. -/
theorem StepCase.rspv_of_busy {s t : State} (h : StepCase s t) (ht : t.st ≠ .idle) : t.rspv = false := by
  cases h with
  | illegal _ _ hs | rdavgZero _ hs | setcg _ _ hs | getcg _ hs | pwrup _ hs => exact absurd hs ht
  | doneRaw | divide | pdLoEnd => exact absurd rfl ht
  | _ => rfl

/-- R110, R120, R133: without reset, a busy block becomes idle only with the response `OK`. -/
theorem StepCase.ok_of_idle {s t : State} (h : StepCase s t) (hr : (portNow s).rst_i = false) (hs : s.st ≠ .idle)
    (ht : t.st = .idle) : t.rspv = true ∧ t.rstat = 0#3 := by
  cases h with
  | doneRaw | divide | pdLoEnd => exact ⟨rfl, rfl⟩
  | reset hrst => exact absurd (hr.symm.trans hrst) (by decide)
  | quiet | illegal | rdraw | rdavgZero | rdavg | setcg | getcg | pwrdn | pwrup | slotWait | readyWait | counting => contradiction
  | _ => cases ht

/-- A busy block whose run reaches `IDLE` without reset responds `OK` by then, busy and without a response until it does. -/
theorem exists_response_of_reaches_idle {s u : State} {n : Nat} (hs : s.st ≠ .idle ∧ s.rspv = false) (hno : NoReset s n)
    (hrun : runFor n s = .next u) (hu : u.st = .idle) :
    ∃ m t, m ≤ n ∧ runFor m s = .next t ∧ t.st = .idle ∧ t.rspv = true ∧ t.rstat = 0#3 ∧
      ∀ k < m, ∃ v, runFor k s = .next v ∧ v.st ≠ .idle ∧ v.rspv = false := by
  induction n generalizing s with
  | zero =>
    cases hrun
    exact absurd hu hs.1
  | succ n ih =>
    cases hstep : step s with
    | fault | refused => simp [runFor, hstep] at hrun
    | next v =>
      have hone : runFor 1 s = .next v := runFor_succ_of_next 0 hstep
      have hcase := step_cases hstep
      by_cases hv : v.st = .idle
      · obtain ⟨hrspv, hrstat⟩ := hcase.ok_of_idle (hno.now n.succ_pos) hs.1 hv
        refine ⟨1, v, by omega, hone, hv, hrspv, hrstat, fun k hk => ?_⟩
        obtain rfl : k = 0 := by omega
        exact ⟨s, rfl, hs⟩
      · rw [runFor_succ_of_next n hstep] at hrun
        have hnov : NoReset v n := NoReset.after hone (Nat.add_comm n 1 ▸ hno)
        obtain ⟨m, t, hm, hrunm, hidle, hrspv, hrstat, hbusy⟩ := ih ⟨hv, hcase.rspv_of_busy hv⟩ hnov hrun
        refine ⟨m + 1, t, by omega, (runFor_succ_of_next m hstep).trans hrunm, hidle, hrspv, hrstat, fun k hk => ?_⟩
        cases k with
        | zero => exact ⟨s, rfl, hs⟩
        | succ k =>
          rw [runFor_succ_of_next k hstep]
          exact hbusy k (by omega)

/-- Whatever the levels of the data line are, they are a word. -/
theorem exists_carriesWord (s : State) (r : Nat) : ∃ w, CarriesWord s r w := by
  refine ⟨BitVec.ofFnLE fun i : Fin 24 => (portAt s (r + (2 * (23 - i.val) + 1) * Config.hold)).dout_i, fun k hk => ?_⟩
  rw [BitVec.getLsbD_ofFnLE, dif_pos (by omega), show 23 - (23 - k) = k by omega]

/-- The state after the acceptance of `RDRAW` (R104). -/
def rdrawAccepted (s : State) : State := { s with avgMode := false, st := .waitRdy }

theorem stateRule_rdraw {p : PortInputs} {s : State} (hst : s.st = .idle) (hpwr : s.pwr = false)
    (hv : p.cmd_valid_i = true) (hd : decode p.cmd_word_i = .ok .rdraw) :
    stateRule exec p s = .next (rdrawAccepted s) := by
  simp [stateRule, hst, idleRule, hv, hd, exec, execRdraw, hpwr, rdrawAccepted]

/-- R105. -/
theorem stateRule_readySeen {p : PortInputs} {s : State} (hst : s.st = .waitRdy) (hready : p.dout_i = false) :
    stateRule exec p s = .next { startPhase true s with bitCnt := 0#5, st := .bitHi } := by
  simp [stateRule, hst, waitRdyRule, hready]

/-- R110. -/
theorem stateRule_doneRaw (p : PortInputs) {s : State} (hst : s.st = .done) (havg : s.avgMode = false) :
    stateRule exec p s = .next (respond .ok s.sample { s with st := .idle }) := by
  simp [stateRule, hst, doneRule, havg, doneRawRule]

/-- R104, R105, R110, R114: a raw read that waits for the data-ready of cycle `r` is idle after its frame and `DONE`. -/
theorem runFor_rawRead_idle {s : State} {r : Nat} (hst : s.st = .waitRdy) (havg : s.avgMode = false)
    (hno : NoReset s (r + 2 + frameCycles s.sel)) (hready : FirstReady s 0 r) :
    ∃ t, runFor (r + 2 + frameCycles s.sel) s = .next t ∧ t.st = .idle := by
  obtain ⟨w, hw⟩ := exists_carriesWord s r
  obtain ⟨d, hrun, hdone⟩ := frame_done hst (hno.mono (by omega)) hready hw
  have hlen : r + 2 + frameCycles s.sel = r + 1 + frameCycles s.sel + 1 := by omega
  rw [hlen] at hno ⊢
  have hrd : (portNow d).rst_i = false := (NoReset.after hrun hno).now Nat.one_pos
  have havgd : d.avgMode = false := (avgMode_of_outsideFrame hdone.kept).trans havg
  rw [runFor_succ_last hrun, step_of_running hrd, stateRule_doneRaw (s := beginCycle d) _ hdone.st havgd]
  exact ⟨_, rfl, rfl⟩

/-- Settles O53: the read becomes idle when its frame is over, and the first cycle in which it is idle shows the response. -/
theorem rawReadEndsWhenDataReadyIsFair : Obligations.RawReadEndsWhenDataReadyIsFair := by
  rintro s hst hpwr hv hd hno ⟨r, hready, hfair⟩
  obtain ⟨r, rfl⟩ := Nat.exists_eq_add_of_le hready.1
  have haccept : step s = .next (rdrawAccepted (beginCycle s)) := by
    rw [step_of_running (hno.now (by omega)), stateRule_rdraw (s := beginCycle s) hst hpwr hv hd]
  have hone : runFor 1 s = .next (rdrawAccepted (beginCycle s)) := runFor_succ_of_next 0 haccept
  have hno' : NoReset (rdrawAccepted (beginCycle s)) (r + 2 + frameCycles s.sel) :=
    NoReset.after hone (hno.mono (by omega))
  obtain ⟨u, hrun, hu⟩ := runFor_rawRead_idle rfl rfl hno' (FirstReady.after (a := 0) hone hready)
  obtain ⟨m, t, hm, hrunm, hidle, hrspv, hrstat, hbusy⟩ :=
    exists_response_of_reaches_idle ⟨by simp [rdrawAccepted], rfl⟩ hno' hrun hu
  refine ⟨m + 1, t, by omega, by omega, (runFor_succ_of_next m haccept).trans hrunm, hidle, hrspv, hrstat, ?_⟩
  intro k hk hkm
  obtain ⟨k, rfl⟩ := Nat.exists_eq_add_of_le' hk
  rw [runFor_succ_of_next k haccept]
  exact hbusy k (by omega)

end Sys2Proof.Machine
end

section
/-!
SUPPORT. The device in a frame (R74, R75): what it counts and shows while the clock line pulses, and what the end of a cycle
without reset does to it.
-/

namespace Sys2Proof.Machine

/-! ### Pulses -/

/-- The device `a` with the result `w` and the line low, after `k` whole pulses of a frame; before the first the result is
ready. -/
def afterPulses (a : Adc) (w : Raw) (k : Nat) : Adc :=
  { a with phase := if k = 0 then .ready w else .frame w k, sckWas := false, highFor := 0 }

/-- The device `a` with the result `w` in pulse `k` of a frame, counted from 1, the line high for `h` cycles. -/
def inPulse (a : Adc) (w : Raw) (k h : Nat) : Adc :=
  { a with phase := .frame w k, sckWas := true, highFor := h }

theorem afterPulses_zero {a : Adc} {w : Raw} (hphase : a.phase = .ready w) (hsck : a.sckWas = false)
    (hhigh : a.highFor = 0) : afterPulses a w 0 = a := by
  simp [afterPulses, ← hphase, ← hsck, ← hhigh]

theorem afterPulses_phase {a : Adc} {w : Raw} {k : Nat} (hk : 0 < k) : (afterPulses a w k).phase = .frame w k :=
  if_neg hk.ne'

theorem afterPulses_ne_converting (a : Adc) (w : Raw) (k : Nat) : (afterPulses a w k).phase ≠ .converting := by
  unfold afterPulses
  split <;> simp

theorem afterPulses_ne_poweredDown (a : Adc) (w : Raw) (k : Nat) : (afterPulses a w k).phase ≠ .poweredDown := by
  unfold afterPulses
  split <;> simp

/-! ### What the device sees -/

/-- R79: a low line takes a device that is not in low-power mode nowhere. -/
theorem adcSees_low {a : Adc} (h : a.phase ≠ .poweredDown) : adcSees false a = { a with sckWas := false, highFor := 0 } := by
  simp [adcSees, phaseAfter, h]

theorem adcSees_low_afterPulses (a : Adc) (w : Raw) (k : Nat) : adcSees false (afterPulses a w k) = afterPulses a w k :=
  adcSees_low (afterPulses_ne_poweredDown a w k)

theorem adcSees_low_inPulse (a : Adc) (w : Raw) {k : Nat} (hk : 0 < k) (h : Nat) :
    adcSees false (inPulse a w k h) = afterPulses a w k := by
  rw [adcSees_low (by simp [inPulse]), afterPulses, if_neg hk.ne']
  rfl

/-- R74, R75: a rising edge is the next pulse. -/
theorem adcSees_high_afterPulses {a : Adc} (w : Raw) {k : Nat} (hk : k < 27) (hpd : 1 ≤ a.pdCycles) :
    adcSees true (afterPulses a w k) = inPulse a w (k + 1) 1 := by
  have hedge : risingEdge (afterPulses a w k).phase = .frame w (k + 1) := by
    unfold afterPulses
    split
    · simp [risingEdge, ‹k = 0›]
    · simp [risingEdge, hk]
  have hshort : ¬(afterPulses a w k).pdCycles < (afterPulses a w k).highFor + 1 := Nat.not_lt.mpr hpd
  rw [adcSees, if_pos rfl, phaseAfter, if_pos rfl, if_neg hshort, hedge]
  rfl

theorem adcSees_high_inPulse {a : Adc} (w : Raw) (k : Nat) {h : Nat} (hpd : h + 1 ≤ a.pdCycles) :
    adcSees true (inPulse a w k h) = inPulse a w k (h + 1) := by
  have hshort : ¬(inPulse a w k h).pdCycles < (inPulse a w k h).highFor + 1 := Nat.not_lt.mpr hpd
  rw [adcSees, if_pos rfl, phaseAfter, if_pos rfl, if_neg hshort]
  rfl

/-- R74: a high phase that does not power the device down is one pulse. -/
theorem sees_highPhase {a : Adc} (w : Raw) {k n : Nat} (hk : k < 27) (hpd : n + 1 ≤ a.pdCycles) :
    (adcSees true)^[n + 1] (afterPulses a w k) = inPulse a w (k + 1) (n + 1) := by
  induction n with
  | zero => exact adcSees_high_afterPulses w hk hpd
  | succ n ih => rw [Function.iterate_succ_apply', ih (by omega), adcSees_high_inPulse w (k + 1) hpd]

theorem sees_lowPhase (a : Adc) (w : Raw) {k : Nat} (hk : 0 < k) (h n : Nat) :
    (adcSees false)^[n + 1] (inPulse a w k h) = afterPulses a w k := by
  induction n with
  | zero => exact adcSees_low_inPulse a w hk h
  | succ n ih => rw [Function.iterate_succ_apply', ih, adcSees_low_afterPulses]

/-- In all of a low phase, and in the cycle before it, the device has counted the pulses before it. -/
theorem sees_lowPhase_phase (a : Adc) (w : Raw) {k : Nat} (hk : 0 < k) (h n : Nat) :
    ((adcSees false)^[n] (inPulse a w k h)).phase = .frame w k := by
  cases n with
  | zero => rfl
  | succ n => rw [sees_lowPhase a w hk, afterPulses_phase hk]

/-- R57, R74: settled, the line shows bit `23 − k` in data pulse `k`, counted from 0. -/
theorem adcLine_dataPulse (d : AdcDraw) {a : Adc} (w : Raw) {k h : Nat} (hk : k < 24) (hsettle : a.settleCycles ≤ h) :
    adcLine d (inPulse a w (k + 1) h) = w.getLsbD (23 - k) := by
  simp only [adcLine, inPulse, show k + 1 ≤ 24 by omega, hsettle, decide_true, Bool.and_self, if_true]
  rw [show 24 - (k + 1) = 23 - k by omega]

/-! ### The end of a cycle -/

/-- The device at the end of a cycle without reset and without a short power-down, by the sequencer's states alone. -/
def deviceAfter (d : AdcDraw) (st st' : SeqState) (a : Adc) : Adc :=
  if st = .bitLo ∧ st' = .done then { a with phase := .lost }
  else if st = .pulseLo ∧ st' = .done then adcStarts a
  else adcConverts d a

theorem adcAfter_eq_deviceAfter (d : AdcDraw) {s : State} (s' : State) (a : Adc) (hr : (portNow s).rst_i = false)
    (hlow : s.st = .idle → s.sck = false) : adcAfter d s s' a = deviceAfter d s.st s'.st a := by
  have hspoils : spoils s s' a = decide (s.st = .bitLo ∧ s'.st = .done) := by
    by_cases hidle : s.st = .idle
    · simp [spoils, hr, hidle, hlow hidle]
    · simp [spoils, hr, hidle]
  simp [adcAfter, deviceAfter, hspoils, frameEnds]

/-- Inside a frame and before it the end of a cycle changes nothing. -/
theorem deviceAfter_of_not_done (d : AdcDraw) (st : SeqState) {st' : SeqState} {a : Adc} (hst' : st' ≠ .done)
    (ha : a.phase ≠ .converting) : deviceAfter d st st' a = a := by
  rw [deviceAfter, if_neg (fun h => hst' h.2), if_neg (fun h => hst' h.2), adcConverts_of_ne_converting d ha]

/-! ### The mode a frame programs -/

/-- `b` is the device `a` after a frame of 24 data pulses and the pulses of `sel` (R75, R76; with none, `93` U2). -/
def Programmed (sel : Selector) (a b : Adc) : Prop :=
  (sel ≠ 0#2 → b.mode = sel ∧ (b.phase = .converting ∨ ∃ v, b.phase = .ready v)) ∧
  (sel = 0#2 → b.mode = a.mode ∧ b.phase = .lost)

/-- R113: a frame without selector pulses leaves the device lost, in its prior mode. -/
theorem programmed_of_bitLo (d : AdcDraw) (a : Adc) (w : Raw) {sel : Selector} (hp : pulses sel = 0) :
    Programmed sel a (deviceAfter d .bitLo .done (afterPulses a w (24 + pulses sel))) := by
  have hsel : sel = 0#2 := BitVec.eq_of_toNat_eq ((pulses_eq_toNat sel).symm.trans hp)
  exact ⟨fun h => absurd hsel h, fun _ => ⟨rfl, rfl⟩⟩

/-- R75: one with them starts the conversion in the mode they select. -/
theorem programmed_of_pulseLo (d : AdcDraw) (a : Adc) (w : Raw) {sel : Selector} (hp : pulses sel ≠ 0) :
    Programmed sel a (deviceAfter d .pulseLo .done (afterPulses a w (24 + pulses sel))) := by
  have hphase : (afterPulses a w (24 + pulses sel)).phase = .frame w (24 + pulses sel) := afterPulses_phase (by omega)
  have hrange : 25 ≤ 24 + pulses sel ∧ 24 + pulses sel ≤ 27 := by
    have := pulses_le_three sel
    omega
  have hmode : BitVec.ofNat 2 (pulses sel) = sel := by
    rw [pulses_eq_toNat, BitVec.ofNat_toNat, BitVec.setWidth_eq]
  refine ⟨fun _ => ?_, fun h => absurd (by rw [h]; rfl) hp⟩
  simp [deviceAfter, adcStarts, pendingMode, hphase, hrange, hmode]

theorem adcConverts_mode (d : AdcDraw) (a : Adc) : (adcConverts d a).mode = a.mode := by
  unfold adcConverts
  split <;> rfl

theorem adcConverts_phase (d : AdcDraw) {a : Adc} (h : a.phase = .converting ∨ ∃ v, a.phase = .ready v) :
    (adcConverts d a).phase = .converting ∨ ∃ v, (adcConverts d a).phase = .ready v := by
  unfold adcConverts
  split
  · exact .inr ⟨_, rfl⟩
  · exact h

/-- R77, R78: after the frame a low line leaves all that as it is, but that the next result may become ready. -/
theorem Programmed.lowCycle {sel : Selector} {a b : Adc} (h : Programmed sel a b) (d : AdcDraw) (st : SeqState) {st' : SeqState}
    (hst' : st' ≠ .done) : Programmed sel a (deviceAfter d st st' (adcSees false b)) := by
  obtain ⟨hconverts, hlost⟩ := h
  have hawake : b.phase ≠ .poweredDown := by
    by_cases hsel : sel = 0#2
    · simp [(hlost hsel).2]
    · rcases (hconverts hsel).2 with hb | ⟨v, hb⟩ <;> simp [hb]
  rw [adcSees_low hawake, deviceAfter, if_neg (fun h => hst' h.2), if_neg (fun h => hst' h.2)]
  refine ⟨fun hsel => ?_, fun hsel => ?_⟩
  · obtain ⟨hmode, hphase⟩ := hconverts hsel
    exact ⟨(adcConverts_mode d _).trans hmode, adcConverts_phase d hphase⟩
  · obtain ⟨hmode, hphase⟩ := hlost hsel
    rw [adcConverts_of_ne_converting d (by simp [hphase])]
    exact ⟨hmode, hphase⟩

end Sys2Proof.Machine
end

section
/-!
SUPPORT. Runs of the closed system: what holds after so many cycles without reset, whatever the host's inputs and the draws are;
and a phase of the clock line as the block alone runs it, with the device counting along.
-/

namespace Sys2Proof.Machine

/-! ### Reaching -/

/-- Every closed run of `n` cycles without reset from `c` ends in a state of `P`. -/
def Reaches (n : Nat) (c : ClosedState) (P : ClosedState → Prop) : Prop :=
  ∀ xs : List (PortInputs × AdcDraw), xs.length = n → (∀ x ∈ xs, x.1.rst_i = false) →
    ∃ c', closedRun xs c = .next c' ∧ P c'

theorem closedRun_cons {p : PortInputs} {d : AdcDraw} {c c' : ClosedState} (xs : List (PortInputs × AdcDraw))
    (h : closedStep p d c = .next c') : closedRun ((p, d) :: xs) c = closedRun xs c' := by
  simp [closedRun, h]

theorem closedRun_append {xs : List (PortInputs × AdcDraw)} {c c' : ClosedState} (ys : List (PortInputs × AdcDraw))
    (h : closedRun xs c = .next c') : closedRun (xs ++ ys) c = closedRun ys c' := by
  induction xs generalizing c with
  | nil =>
    cases h
    rfl
  | cons x xs ih =>
    obtain ⟨p, d⟩ := x
    cases hs : closedStep p d c with
    | next u =>
      rw [List.cons_append, closedRun_cons _ hs]
      rw [closedRun_cons _ hs] at h
      exact ih h
    | fault | refused => simp [closedRun, hs] at h

section
variable {m n : Nat} {c : ClosedState} {P Q : ClosedState → Prop}

theorem Reaches.of_eq (h : Reaches m c P) (hmn : m = n) : Reaches n c P := hmn ▸ h

theorem Reaches.imp (h : Reaches n c P) (hPQ : ∀ c', P c' → Q c') : Reaches n c Q := fun xs hlen hno =>
  (h xs hlen hno).imp fun c' hc => ⟨hc.1, hPQ c' hc.2⟩

theorem reaches_zero (h : P c) : Reaches 0 c P := by
  intro xs hlen _
  obtain rfl := List.length_eq_zero_iff.mp hlen
  exact ⟨c, rfl, h⟩

theorem Reaches.trans (h : Reaches m c P) (hPQ : ∀ c', P c' → Reaches n c' Q) : Reaches (m + n) c Q := by
  intro xs hlen hno
  obtain ⟨c', hrun, hP⟩ := h (xs.take m) (by rw [List.length_take]; omega) fun x hx => hno x (List.mem_of_mem_take hx)
  rw [← List.take_append_drop m xs, closedRun_append _ hrun]
  exact hPQ c' hP (xs.drop m) (by rw [List.length_drop]; omega) fun x hx => hno x (List.mem_of_mem_drop hx)

end

/-! ### One cycle -/

/-- R82, R96: a closed cycle without reset is a cycle of the block with the line of the device that has seen the clock line. -/
theorem closedStep_of_step {p : PortInputs} {d : AdcDraw} {c : ClosedState} {t : State} (hr : p.rst_i = false)
    (hlow : c.block.st = .idle → c.block.sck = false)
    (h : step (drive { p with dout_i := adcLine d (adcSees c.block.sck c.adc) } c.block) = .next t) :
    closedStep p d c = .next ⟨t, deviceAfter d c.block.st t.st (adcSees c.block.sck c.adc)⟩ := by
  simp only [closedStep, h]
  rw [adcAfter_eq_deviceAfter (s := drive _ c.block) d t _ (by rw [portNow_drive]; exact hr) hlow, drive_st]

theorem reaches_one {c : ClosedState} {P : ClosedState → Prop} (hlow : c.block.st = .idle → c.block.sck = false)
    (h : ∀ q d, q.rst_i = false → q.dout_i = adcLine d (adcSees c.block.sck c.adc) →
      ∃ t, step (drive q c.block) = .next t ∧ P ⟨t, deviceAfter d c.block.st t.st (adcSees c.block.sck c.adc)⟩) :
    Reaches 1 c P := by
  intro xs hlen hno
  obtain ⟨⟨p, d⟩, rfl⟩ := List.length_eq_one_iff.mp hlen
  have hr : p.rst_i = false := hno (p, d) (List.mem_singleton_self _)
  obtain ⟨t, hstep, hP⟩ := h { p with dout_i := adcLine d (adcSees c.block.sck c.adc) } d hr rfl
  exact ⟨_, closedRun_cons [] (closedStep_of_step hr hlow hstep), hP⟩

theorem step_drive_of_running {p : PortInputs} (s : State) (hr : p.rst_i = false) :
    step (drive p s) = stateRule exec p (beginCycle s) := by
  rw [step_drive, if_neg (by rw [hr]; decide)]

/-! ### A phase -/

/-- The closed state `n` cycles into a phase that starts in `c`, with `HOLDCNT` at `cnt`. -/
def intoPhase (n : Nat) (cnt : HoldCount) (c : ClosedState) : ClosedState :=
  { block := elapse n { c.block with holdCnt := cnt }, adc := (adcSees c.block.sck)^[n] c.adc }

theorem adcSees_intoPhase (n : Nat) (cnt : HoldCount) (c : ClosedState) :
    adcSees c.block.sck (intoPhase n cnt c).adc = (adcSees c.block.sck)^[n + 1] c.adc :=
  (Function.iterate_succ_apply' _ n c.adc).symm

theorem step_intoPhase {c : ClosedState} {q : PortInputs} {cnt : HoldCount} (n : Nat) (hr : q.rst_i = false)
    (hst : c.block.st ∈ [SeqState.bitHi, .bitLo, .pulseHi, .pulseLo, .pdLo]) (hne : cnt ≠ 0#_) :
    step (drive q (intoPhase n cnt c).block) = .next (intoPhase (n + 1) (cnt - 1#_) c).block := by
  rw [step_of_counting (s := drive q (intoPhase n cnt c).block) (by rw [portNow_drive, hr]) hst hne,
    beginCycle_drive, intoPhase, beginCycle_elapse]
  rfl

/-- The last cycle of a phase that starts in `c`. -/
def lastCycle (c : ClosedState) : ClosedState := intoPhase (Config.hold - 1) 0#_ c

section
variable {c : ClosedState} (hst : c.block.st ∈ [SeqState.bitHi, .bitLo, .pulseHi, .pulseLo, .pdLo])
  (hload : c.block.holdCnt = holdReload)
  (hphase : ∀ n < Config.hold, ((adcSees c.block.sck)^[n + 1] c.adc).phase ≠ .converting)
include hst hload hphase

/-- R100 in the closed system: `n` cycles into a phase, `HOLDCNT` has gone down by `n` and the device has seen the line `n`
times. -/
theorem reaches_intoPhase {n : Nat} (hn : n < Config.hold) :
    Reaches n c fun c' => ∃ cnt : HoldCount, cnt.toNat = Config.hold - 1 - n ∧ c' = intoPhase n cnt c := by
  induction n with
  | zero => exact reaches_zero ⟨c.block.holdCnt, by rw [hload, holdReload_toNat]; rfl, by simp [intoPhase]⟩
  | succ n ih =>
    refine (ih (by omega)).trans ?_
    rintro _ ⟨cnt, hcnt, rfl⟩
    have hne : cnt ≠ 0#_ := by
      rintro rfl
      rw [BitVec.toNat_ofNat, Nat.zero_mod] at hcnt
      omega
    have hidle : c.block.st ≠ .idle := fun h => by simp [h] at hst
    have hdone : c.block.st ≠ .done := fun h => by simp [h] at hst
    refine reaches_one (fun h => absurd h hidle) fun q d hr _ => ⟨_, step_intoPhase n hr hst hne, cnt - 1#_, ?_, ?_⟩
    · rw [holdCount_sub_one_toNat cnt hne]
      omega
    · have hseen := adcSees_intoPhase n cnt c
      show (⟨_, deviceAfter d c.block.st c.block.st (adcSees c.block.sck (intoPhase n cnt c).adc)⟩ : ClosedState) = _
      rw [hseen, deviceAfter_of_not_done d _ hdone (hphase n (by omega))]
      rfl

theorem reaches_lastCycle : Reaches (Config.hold - 1) c (· = lastCycle c) := by
  refine (reaches_intoPhase hst hload hphase (Nat.sub_lt hold_pos Nat.one_pos)).imp ?_
  rintro _ ⟨cnt, hcnt, rfl⟩
  obtain rfl : cnt = 0#_ := by
    apply BitVec.eq_of_toNat_eq
    rw [hcnt, Nat.sub_self, BitVec.toNat_ofNat, Nat.zero_mod]
  rfl

end

/-- The state `s` with the inputs `q` in each of the next `HOLD` cycles. -/
def holding (q : PortInputs) (s : State) : State :=
  { s with inputs := List.replicate Config.hold q ++ s.inputs.drop Config.hold }

theorem portAt_holding (q : PortInputs) (s : State) {k : Nat} (hk : k < Config.hold) : portAt (holding q s) k = q := by
  simp [portAt, holding, List.getElem?_append, hk]

theorem noReset_holding {q : PortInputs} (s : State) (hr : q.rst_i = false) : NoReset (holding q s) Config.hold :=
  fun _ hk => by rw [portAt_holding q s hk, hr]

/-- The last cycle of a phase of the closed block does what the phase of the block alone does, when that has the same inputs
in it. -/
theorem step_lastCycle {c : ClosedState} {q : PortInputs} (hr : q.rst_i = false)
    (hst : c.block.st ∈ [SeqState.bitHi, .bitLo, .pulseHi, .pulseLo, .pdLo]) (hload : c.block.holdCnt = holdReload) :
    step (drive q (lastCycle c).block) = runFor Config.hold (holding q c.block) := by
  have hpos := hold_pos
  have hover : phaseOver (holding q c.block) = phaseOver c.block := by simp [phaseOver, holding, elapse]
  rw [step_drive_of_running _ hr, runFor_phase (s := holding q c.block) hst hload (noReset_holding c.block hr),
    portAt_holding q _ (by omega), hover, lastCycle, intoPhase, beginCycle_elapse, Nat.sub_add_cancel hpos]
  rfl

/-- R100 in the closed system: the end of a phase. -/
theorem reaches_phaseEnd {c : ClosedState} {P : ClosedState → Prop}
    (hst : c.block.st ∈ [SeqState.bitHi, .bitLo, .pulseHi, .pulseLo, .pdLo]) (hload : c.block.holdCnt = holdReload)
    (h : ∀ q d, q.rst_i = false → q.dout_i = adcLine d ((adcSees c.block.sck)^[Config.hold] c.adc) →
      ∃ t, runFor Config.hold (holding q c.block) = .next t ∧
        P ⟨t, deviceAfter d c.block.st t.st ((adcSees c.block.sck)^[Config.hold] c.adc)⟩) :
    Reaches 1 (lastCycle c) P := by
  have hseen : adcSees (lastCycle c).block.sck (lastCycle c).adc = (adcSees c.block.sck)^[Config.hold] c.adc :=
    (adcSees_intoPhase _ _ c).trans (by rw [Nat.sub_add_cancel hold_pos])
  have hidle : c.block.st ≠ .idle := fun h => by simp [h] at hst
  refine reaches_one (fun h => absurd h hidle) fun q d hr hline => ?_
  rw [step_lastCycle hr hst hload, hseen]
  exact h q d hr (hseen ▸ hline)

end Sys2Proof.Machine
end

section
/-!
SUPPORT. A raw read of the closed system (R74, R75, R103): phase by phase the block pulses the clock line, the device counts the
pulses and shows its bits, and after the frame the block responds and the device has its next mode.
-/

namespace Sys2Proof.Machine

/-- The block meets `B`, and the device is `b`. -/
structure At (B : State → Prop) (b : Adc) (c : ClosedState) : Prop where
  block : B c.block
  adc : c.adc = b

/-! ### Phases of a frame -/

section
variable {s t : State} {w : Raw} {level : Bool} {k j n : Nat}

theorem AtDataPhase.timed (h : AtDataPhase s w level k n t) :
    t.st ∈ [SeqState.bitHi, .bitLo, .pulseHi, .pulseLo, .pdLo] := by
  rw [h.st]
  cases level <;> decide

theorem AtDataPhase.not_done (h : AtDataPhase s w level k n t) : t.st ≠ .done := by
  rw [h.st]
  cases level <;> decide

theorem AtDataPhase.holding (h : AtDataPhase s w level k n t) (q : PortInputs) : AtDataPhase s w level k n (holding q t) :=
  ⟨h.st, h.sck, h.holdCnt, h.bitCnt, h.bits, h.kept⟩

theorem AtSelectorPhase.timed (h : AtSelectorPhase s w level j t) :
    t.st ∈ [SeqState.bitHi, .bitLo, .pulseHi, .pulseLo, .pdLo] := by
  rw [h.st]
  cases level <;> decide

theorem AtSelectorPhase.not_done (h : AtSelectorPhase s w level j t) : t.st ≠ .done := by
  rw [h.st]
  cases level <;> decide

theorem AtSelectorPhase.holding (h : AtSelectorPhase s w level j t) (q : PortInputs) :
    AtSelectorPhase s w level j (holding q t) :=
  ⟨h.st, h.sck, h.holdCnt, h.pulseCnt, h.shift, h.sample, h.kept⟩

end

section
variable {c : ClosedState} {a : Adc} {w : Raw} {k : Nat} {B : State → Prop}
  (hst : c.block.st ∈ [SeqState.bitHi, .bitLo, .pulseHi, .pulseLo, .pdLo]) (hload : c.block.holdCnt = holdReload)
  (hB : ∀ t, B t → t.st ≠ .done)
include hst hload hB

/-- A phase that leads to `B` in the block leads to it in the closed system, with the device `b` that has seen the phase. -/
theorem reaches_phase {b : Adc} (hseen : (adcSees c.block.sck)^[Config.hold] c.adc = b)
    (hphase : ∀ n < Config.hold, ((adcSees c.block.sck)^[n + 1] c.adc).phase ≠ .converting)
    (hend : ∀ q d, q.rst_i = false → q.dout_i = adcLine d b →
      ∃ t, runFor Config.hold (holding q c.block) = .next t ∧ B t) :
    Reaches Config.hold c (At B b) := by
  have hpos := hold_pos
  have hb : b.phase ≠ .converting := hseen ▸ hphase Config.holdLessOne (Nat.lt_succ_self _)
  refine ((reaches_lastCycle hst hload hphase).trans ?_).of_eq (Nat.sub_add_cancel hpos)
  rintro _ rfl
  refine reaches_phaseEnd hst hload fun q d hr hline => ?_
  rw [hseen] at hline ⊢
  obtain ⟨t, hrun, ht⟩ := hend q d hr hline
  exact ⟨t, hrun, ht, deviceAfter_of_not_done d _ (hB t ht) hb⟩

/-- R74: a high phase is the next pulse of the device. -/
theorem reaches_highPhase (hsck : c.block.sck = true) (hadc : c.adc = afterPulses a w k) (hk : k < 27)
    (hpd : Config.hold ≤ a.pdCycles)
    (hend : ∀ q d, q.rst_i = false → q.dout_i = adcLine d (inPulse a w (k + 1) Config.hold) →
      ∃ t, runFor Config.hold (holding q c.block) = .next t ∧ B t) :
    Reaches Config.hold c (At B (inPulse a w (k + 1) Config.hold)) := by
  refine reaches_phase hst hload hB ?_ (fun n hn => ?_) hend <;> rw [hsck, hadc]
  · exact sees_highPhase w hk hpd
  · rw [sees_highPhase w hk (by omega)]
    simp [inPulse]

/-- A low phase is the rest of the pulse. -/
theorem reaches_lowPhase (hsck : c.block.sck = false) (hadc : c.adc = inPulse a w k Config.hold) (hk : 0 < k)
    (hend : ∀ q, q.rst_i = false → ∃ t, runFor Config.hold (holding q c.block) = .next t ∧ B t) :
    Reaches Config.hold c (At B (afterPulses a w k)) := by
  refine reaches_phase hst hload hB ?_ (fun n _ => ?_) (fun q _ hr _ => hend q hr) <;> rw [hsck, hadc]
  · exact sees_lowPhase a w hk _ _
  · rw [sees_lowPhase a w hk]
    exact afterPulses_ne_converting a w k

end

section
variable {s : State} {a : Adc} {w : Raw} {c : ClosedState} {k j : Nat}

/-! ### Pulses -/

theorem reaches_dataLow (hsettle : a.settleCycles ≤ Config.hold) (hpd : Config.hold ≤ a.pdCycles) (hk : k < 24)
    (h : At (AtDataPhase s w true k k) (afterPulses a w k) c) :
    Reaches Config.hold c (At (AtDataPhase s w false k (k + 1)) (inPulse a w (k + 1) Config.hold)) := by
  have hpos := hold_pos
  refine reaches_highPhase h.block.timed h.block.holdCnt (fun _ ht => ht.not_done) h.block.sck h.adc (by omega) hpd ?_
  intro q d hr hline
  refine (h.block.holding q).fall hk (noReset_holding _ hr) ?_
  rw [portAt_holding q _ (by omega), hline, adcLine_dataPulse d w hk hsettle]

theorem reaches_nextDataHigh (hk : k < 23) (h : At (AtDataPhase s w false k (k + 1)) (inPulse a w (k + 1) Config.hold) c) :
    Reaches Config.hold c (At (AtDataPhase s w true (k + 1) (k + 1)) (afterPulses a w (k + 1))) :=
  reaches_lowPhase h.block.timed h.block.holdCnt (fun _ ht => ht.not_done) h.block.sck h.adc k.succ_pos
    fun q hr => (h.block.holding q).rise hk (noReset_holding _ hr)

theorem reaches_firstSelectorHigh (hp : pulses s.sel ≠ 0)
    (h : At (AtDataPhase s w false 23 24) (inPulse a w 24 Config.hold) c) :
    Reaches Config.hold c (At (AtSelectorPhase s w true 0) (afterPulses a w 24)) :=
  reaches_lowPhase h.block.timed h.block.holdCnt (fun _ ht => ht.not_done) h.block.sck h.adc (by decide)
    fun q hr => (h.block.holding q).riseToSelector hp (noReset_holding _ hr)

theorem reaches_selectorLow (hpd : Config.hold ≤ a.pdCycles) (hj : j < pulses s.sel)
    (h : At (AtSelectorPhase s w true j) (afterPulses a w (24 + j)) c) :
    Reaches Config.hold c (At (AtSelectorPhase s w false j) (inPulse a w (24 + j + 1) Config.hold)) := by
  have hle := pulses_le_three s.sel
  exact reaches_highPhase h.block.timed h.block.holdCnt (fun _ ht => ht.not_done) h.block.sck h.adc (by omega) hpd
    fun q d hr _ => (h.block.holding q).fall (noReset_holding _ hr)

theorem reaches_nextSelectorHigh (hj : j + 1 < pulses s.sel)
    (h : At (AtSelectorPhase s w false j) (inPulse a w (24 + j + 1) Config.hold) c) :
    Reaches Config.hold c (At (AtSelectorPhase s w true (j + 1)) (afterPulses a w (24 + j + 1))) :=
  reaches_lowPhase h.block.timed h.block.holdCnt (fun _ ht => ht.not_done) h.block.sck h.adc (Nat.succ_pos _)
    fun q hr => (h.block.holding q).rise hj (noReset_holding _ hr)

/-- R114: data pulse `k` rises `2k` phases after the first, and the device has counted `k` pulses. -/
theorem reaches_dataHigh (hsettle : a.settleCycles ≤ Config.hold) (hpd : Config.hold ≤ a.pdCycles) (hk : k < 24)
    (h : At (AtDataPhase s w true 0 0) (afterPulses a w 0) c) :
    Reaches (2 * k * Config.hold) c (At (AtDataPhase s w true k k) (afterPulses a w k)) := by
  induction k with
  | zero => exact (reaches_zero h).of_eq (by simp)
  | succ k ih =>
    have hpulse := ((ih (by omega)).trans fun _ => reaches_dataLow hsettle hpd (by omega)).trans fun _ =>
      reaches_nextDataHigh (by omega)
    exact hpulse.of_eq (by ring)

/-- R114: and selector pulse `j` rises `2j` phases after the first. -/
theorem reaches_selectorHigh (hpd : Config.hold ≤ a.pdCycles) (hj : j < pulses s.sel)
    (h : At (AtSelectorPhase s w true 0) (afterPulses a w 24) c) :
    Reaches (2 * j * Config.hold) c (At (AtSelectorPhase s w true j) (afterPulses a w (24 + j))) := by
  induction j with
  | zero => exact (reaches_zero h).of_eq (by simp)
  | succ j ih =>
    have hpulse := ((ih (by omega)).trans fun _ => reaches_selectorLow hpd (by omega)).trans fun _ =>
      reaches_nextSelectorHigh hj
    exact hpulse.of_eq (by ring)

/-! ### The end of a frame -/

/-- `c` is the first cycle of the last phase of a frame of the word `w` that started in the block `s` with the device `a`. -/
structure AtLastPhase (s : State) (w : Raw) (a : Adc) (c : ClosedState) : Prop where
  timed : c.block.st ∈ [SeqState.bitHi, .bitLo, .pulseHi, .pulseLo, .pdLo]
  sck : c.block.sck = false
  holdCnt : c.block.holdCnt = holdReload
  adc : c.adc = inPulse a w (24 + pulses s.sel) Config.hold
  ends : ∀ q, q.rst_i = false → ∃ t, runFor Config.hold (holding q c.block) = .next t ∧ AtDone s w t
  programs : ∀ d, Programmed s.sel a (deviceAfter d c.block.st .done (afterPulses a w (24 + pulses s.sel)))

theorem atLastPhase_of_data (hp : pulses s.sel = 0)
    (h : At (AtDataPhase s w false 23 24) (inPulse a w 24 Config.hold) c) : AtLastPhase s w a c where
  timed := h.block.timed
  sck := h.block.sck
  holdCnt := h.block.holdCnt
  adc := by rw [h.adc, hp]
  ends := fun q hr => (h.block.holding q).finish hp (noReset_holding _ hr)
  programs := fun d => by
    rw [h.block.st]
    exact programmed_of_bitLo d a w hp

theorem atLastPhase_of_selector (hj : j + 1 = pulses s.sel)
    (h : At (AtSelectorPhase s w false j) (inPulse a w (24 + j + 1) Config.hold) c) : AtLastPhase s w a c where
  timed := h.block.timed
  sck := h.block.sck
  holdCnt := h.block.holdCnt
  adc := by rw [h.adc, ← hj, Nat.add_assoc]
  ends := fun q hr => (h.block.holding q).finish hj (noReset_holding _ hr)
  programs := fun d => by
    rw [h.block.st]
    exact programmed_of_pulseLo d a w (by omega)

/-- R114: all phases of a frame but the last. -/
theorem reaches_lastPhase (hsettle : a.settleCycles ≤ Config.hold) (hpd : Config.hold ≤ a.pdCycles)
    (h : At (AtDataPhase s w true 0 0) (afterPulses a w 0) c) :
    Reaches ((2 * (24 + pulses s.sel) - 1) * Config.hold) c (AtLastPhase s w a) := by
  have hlow := (reaches_dataHigh hsettle hpd (show 23 < 24 by decide) h).trans fun _ =>
    reaches_dataLow hsettle hpd (by decide)
  cases hp : pulses s.sel with
  | zero => exact (hlow.imp fun _ => atLastPhase_of_data hp).of_eq (by ring)
  | succ j =>
    have hselector := ((hlow.trans fun _ => reaches_firstSelectorHigh (by omega)).trans fun _ =>
      reaches_selectorHigh hpd (show j < pulses s.sel by omega)).trans fun _ => reaches_selectorLow hpd (by omega)
    refine (hselector.imp fun _ => atLastPhase_of_selector hp.symm).of_eq ?_
    rw [show 2 * (24 + (j + 1)) - 1 = 2 * 23 + 1 + 1 + 2 * j + 1 by omega]
    ring

/-- The block has responded with the word `w`, and the device `a` has been programmed for `sel`. -/
structure ReadReturned (sel : Selector) (w : Raw) (a : Adc) (c : ClosedState) : Prop where
  st : c.block.st = .idle
  rspv : c.block.rspv = true
  rstat : c.block.rstat = 0#3
  rdata : c.block.rdata = sext32 w
  adc : Programmed sel a c.adc

/-- R110: `DONE` of a raw read. -/
theorem reaches_readReturned (havg : s.avgMode = false) (hdone : AtDone s w c.block) (hadc : Programmed s.sel a c.adc) :
    Reaches 1 c (ReadReturned s.sel w a) := by
  refine reaches_one (fun _ => hdone.sck) fun q d hr _ => ?_
  have havgd : c.block.avgMode = false := (avgMode_of_outsideFrame hdone.kept).trans havg
  rw [step_drive_of_running _ hr, stateRule_doneRaw (s := beginCycle c.block) q hdone.st havgd, hdone.sck]
  exact ⟨_, rfl, rfl, rfl, rfl, hdone.sample, hadc.lowCycle d _ (by simp)⟩

/-- R75, R110: in the last cycle of the frame the device has counted all its pulses, and two cycles later the read is over. -/
theorem AtLastPhase.reaches_lastCycle (h : AtLastPhase s w a c) (havg : s.avgMode = false) :
    Reaches (Config.hold - 1) c fun c₁ =>
      c₁.adc.phase = .frame w (24 + pulses s.sel) ∧ Reaches 2 c₁ (ReadReturned s.sel w a) := by
  have hpos : 0 < 24 + pulses s.sel := by omega
  have hseen : (adcSees c.block.sck)^[Config.hold] c.adc = afterPulses a w (24 + pulses s.sel) := by
    rw [h.sck, h.adc]
    exact sees_lowPhase a w hpos _ _
  have hphase : ∀ n, ((adcSees c.block.sck)^[n] c.adc).phase = .frame w (24 + pulses s.sel) := by
    rw [h.sck, h.adc]
    exact sees_lowPhase_phase a w hpos Config.hold
  refine (Machine.reaches_lastCycle h.timed h.holdCnt fun n _ => by rw [hphase]; simp).imp ?_
  rintro _ rfl
  refine ⟨hphase _, ?_⟩
  have hend : Reaches 1 (lastCycle c) fun c' => AtDone s w c'.block ∧ Programmed s.sel a c'.adc := by
    refine reaches_phaseEnd h.timed h.holdCnt fun q d hr _ => ?_
    obtain ⟨t, hrun, ht⟩ := h.ends q hr
    refine ⟨t, hrun, ht, ?_⟩
    rw [hseen, ht.st]
    exact h.programs d
  exact hend.trans fun _ ⟨hdone, hadc⟩ => reaches_readReturned havg hdone hadc

/-! ### The read -/

/-- R104 in the closed system. -/
theorem closedStep_rdraw {p : PortInputs} {d : AdcDraw} (hst : c.block.st = .idle) (hpwr : c.block.pwr = false)
    (hsck : c.block.sck = false) (hr : p.rst_i = false) (hv : p.cmd_valid_i = true) (hd : decode p.cmd_word_i = .ok .rdraw) :
    closedStep p d c = .next ⟨rdrawAccepted (beginCycle c.block),
      deviceAfter d c.block.st (rdrawAccepted (beginCycle c.block)).st (adcSees c.block.sck c.adc)⟩ := by
  refine closedStep_of_step hr (fun _ => hsck) ?_
  rw [step_drive_of_running (p := { p with dout_i := adcLine d (adcSees c.block.sck c.adc) }) _ hr]
  exact stateRule_rdraw (s := beginCycle c.block) hst hpwr hv hd

/-- R105, R73: the ready device starts the frame in the first cycle of the wait. -/
theorem reaches_firstDataHigh (hst : c.block.st = .waitRdy) (hsck : c.block.sck = false) (hadc : c.adc = afterPulses a w 0) :
    Reaches 1 c (At (AtDataPhase c.block w true 0 0) (afterPulses a w 0)) := by
  have hseen : adcSees c.block.sck c.adc = afterPulses a w 0 := by rw [hsck, hadc, adcSees_low_afterPulses]
  refine reaches_one (fun _ => hsck) fun q d hr hline => ?_
  have hready : q.dout_i = false := by
    rw [hline, hseen]
    rfl
  rw [step_drive_of_running _ hr, stateRule_readySeen (s := beginCycle c.block) hst hready, hseen]
  refine ⟨_, rfl, ⟨rfl, rfl, rfl, rfl, readBits_zero w _, rfl⟩, ?_⟩
  exact deviceAfter_of_not_done d _ (by simp) (afterPulses_ne_converting a w 0)

/-- R103 on the closed system, from the wait for data-ready on. -/
theorem reaches_rawRead (hsettle : a.settleCycles ≤ Config.hold) (hpd : Config.hold ≤ a.pdCycles)
    (hst : c.block.st = .waitRdy) (havg : c.block.avgMode = false) (hsck : c.block.sck = false)
    (hadc : c.adc = afterPulses a w 0) :
    Reaches (frameCycles c.block.sel) c fun c₁ =>
      c₁.adc.phase = .frame w (24 + pulses c.block.sel) ∧ Reaches 2 c₁ (ReadReturned c.block.sel w a) := by
  have hread := ((reaches_firstDataHigh hst hsck hadc).trans fun _ => reaches_lastPhase hsettle hpd).trans fun _ h =>
    h.reaches_lastCycle havg
  refine hread.of_eq ?_
  have hpos := hold_pos
  have hframe : frameCycles c.block.sel = (2 * (24 + pulses c.block.sel) - 1) * Config.hold + Config.hold := by
    rw [← Nat.succ_mul, frameCycles]
    congr 1
    omega
  omega

end

/-- Settles O56: acceptance, then the read phase by phase; the run of the first clause is the start of that of the second. -/
theorem closedRawReadReturnsTheResultAndProgramsTheMode :
    Obligations.ClosedRawReadReturnsTheResultAndProgramsTheMode := by
  intro c w p d rest hsettle hpd hst hpwr hsck hphase hsckWas hhigh hv hd hno hlen
  have hadc : afterPulses c.adc w 0 = c.adc := afterPulses_zero hphase hsckWas hhigh
  have hseen : adcSees c.block.sck c.adc = c.adc := by rw [hsck, ← hadc, adcSees_low_afterPulses]
  have hr : p.rst_i = false := hno (p, d) List.mem_cons_self
  have haccept : closedStep p d c = .next ⟨rdrawAccepted (beginCycle c.block), c.adc⟩ := by
    rw [closedStep_rdraw hst hpwr hsck hr hv hd, hseen,
      deviceAfter_of_not_done d _ (by simp [rdrawAccepted]) (by simp [hphase])]
  have hrest : ∀ x ∈ rest, x.1.rst_i = false := fun x hx => hno x (List.mem_cons_of_mem _ hx)
  have htake : (rest.take (frameCycles c.block.sel)).length = frameCycles c.block.sel := by
    rw [List.length_take, hlen]
    exact Nat.min_eq_left (by omega)
  have hdrop : (rest.drop (frameCycles c.block.sel)).length = 2 := by
    rw [List.length_drop]
    omega
  have hread := reaches_rawRead (c := ⟨rdrawAccepted (beginCycle c.block), c.adc⟩) hsettle hpd rfl rfl hsck hadc.symm
  obtain ⟨c₁, hrun₁, hphase₁, hreturn⟩ := hread _ htake fun x hx => hrest x (List.mem_of_mem_take hx)
  obtain ⟨c', hrun', hret⟩ := hreturn _ hdrop fun x hx => hrest x (List.mem_of_mem_drop hx)
  refine ⟨⟨c₁, ?_, hphase₁⟩, c', ?_, hret.st, hret.rspv, hret.rstat, hret.rdata, hret.adc⟩
  · rw [Nat.add_comm, List.take_succ_cons, closedRun_cons _ haccept, hrun₁]
  · rw [closedRun_cons _ haccept, ← List.take_append_drop (frameCycles c.block.sel) rest, closedRun_append _ hrun₁, hrun']

end Sys2Proof.Machine
end

section
/-!
SUPPORT. The encoding (`30_encoding.md`): a word and its three fields hold the same bits, the decoder accepts a word exactly
when its fields are those of a command, and mask and match of the opcode map say the same of those fields.
-/

namespace Sys2Proof.Machine

/-! ### Words and fields -/

@[simp] theorem fieldsOf_wordOf (f : CW32) : fieldsOf (wordOf f) = f := by
  have hrsv : (wordOf f).extractLsb' 16 12 = f.rsv := by
    rw [wordOf, BitVec.extractLsb'_append_eq_of_le le_rfl]
    exact BitVec.extractLsb'_append_eq_right
  have hop : (wordOf f).extractLsb' 28 4 = f.op := by
    rw [wordOf, BitVec.extractLsb'_append_eq_of_le (by decide)]
    exact BitVec.extractLsb'_append_eq_left
  have harg : (wordOf f).extractLsb' 0 16 = f.arg := BitVec.extractLsb'_append_eq_right
  rw [fieldsOf, hop, hrsv, harg]

@[simp] theorem wordOf_fieldsOf (w : Word) : wordOf (fieldsOf w) = w := by
  have hhigh : w.extractLsb' 28 4 ++ w.extractLsb' 16 12 = w.extractLsb' 16 16 :=
    BitVec.extractLsb'_append_extractLsb'_eq_extractLsb' rfl
  have hword : w.extractLsb' 16 16 ++ w.extractLsb' 0 16 = w.extractLsb' 0 32 :=
    BitVec.extractLsb'_append_extractLsb'_eq_extractLsb' rfl
  calc wordOf (fieldsOf w)
      = w.extractLsb' 28 4 ++ w.extractLsb' 16 12 ++ w.extractLsb' 0 16 := rfl
    _ = w := by rw [hhigh, hword, BitVec.extractLsb'_eq_self]

theorem wordOf_eq_iff {f : CW32} {w : Word} : wordOf f = w ↔ fieldsOf w = f :=
  ⟨fun h => by rw [← h, fieldsOf_wordOf], fun h => by rw [← h, wordOf_fieldsOf]⟩

theorem fields_eq_iff {f : CW32} {op : BitVec 4} {rsv : BitVec 12} {arg : BitVec 16} :
    f = ⟨op, rsv, arg⟩ ↔ f.op = op ∧ f.rsv = rsv ∧ f.arg = arg := by
  obtain ⟨_, _, _⟩ := f
  exact CW32.mk.injEq .. ▸ Iff.rfl

theorem op_eq_of_toNat_eq {op : BitVec 4} {n : Nat} (h : op.toNat = n) : op = BitVec.ofNat 4 n := by
  rw [← h, BitVec.ofNat_toNat, BitVec.setWidth_eq]

/-- A mask acts on the three fields apart. -/
theorem fieldsOf_and (u v : Word) :
    fieldsOf (u &&& v) =
      ⟨(fieldsOf u).op &&& (fieldsOf v).op, (fieldsOf u).rsv &&& (fieldsOf v).rsv,
        (fieldsOf u).arg &&& (fieldsOf v).arg⟩ := by
  simp only [fieldsOf, BitVec.extractLsb'_and]

theorem arg_eq_append (arg : BitVec 16) : arg.extractLsb' 2 14 ++ arg.extractLsb' 0 2 = arg :=
  BitVec.extractLsb'_append_extractLsb'

/-- R85: the operand field is a selector's exactly when `ARG[15:2] = 0` and `ARG[1:0]` is the selector. -/
theorem eq_zeroExtend_selector_iff {arg : BitVec 16} {v : Selector} :
    arg = v.zeroExtend 16 ↔ arg.extractLsb' 2 14 = 0#14 ∧ v = arg.extractLsb' 0 2 := by
  have hv : v.zeroExtend 16 = 0#14 ++ v := by revert v; decide
  rw [hv]
  constructor
  · rintro rfl
    exact ⟨BitVec.extractLsb'_append_eq_left, BitVec.extractLsb'_append_eq_right.symm⟩
  · rintro ⟨hhigh, rfl⟩
    rw [← hhigh, arg_eq_append]

theorem setcg_arg (v : Selector) :
    (Instr.setcg v).arg.extractLsb' 2 14 = 0#14 ∧ v = (Instr.setcg v).arg.extractLsb' 0 2 :=
  eq_zeroExtend_selector_iff.mp rfl

/-! ### The decoder -/

/-- The fields of the word of a command (R84, R85, R86). -/
def fieldsOfInstr (i : Instr) : CW32 := ⟨i.op, 0#12, i.arg⟩

theorem encode_eq (i : Instr) : encode i = wordOf (fieldsOfInstr i) := rfl

/-- R87: the fields of an illegal word. -/
def Reserved (f : CW32) : Prop :=
  f.op = 0#4 ∨ 7 ≤ f.op.toNat ∨ f.rsv ≠ 0#12 ∨ (f.op ∈ [1#4, 4#4, 5#4, 6#4] ∧ f.arg ≠ 0#16) ∨
    (f.op = 3#4 ∧ f.arg.extractLsb' 2 14 ≠ 0#14)

theorem not_reserved_fieldsOfInstr (i : Instr) : ¬Reserved (fieldsOfInstr i) := by
  cases i with
  | setcg v =>
    obtain ⟨hhigh, -⟩ := setcg_arg v
    simp [Reserved, fieldsOfInstr, Instr.op, hhigh]
  | _ => simp [Reserved, fieldsOfInstr, Instr.op, Instr.arg]

/-- Everything the decoder can answer (R88): the command whose fields the word has, or an error for a reserved word. -/
theorem decode_cases (w : Word) :
    (∃ i, decode w = .ok i ∧ fieldsOf w = fieldsOfInstr i) ∨ (∃ e, decode w = .error e ∧ Reserved (fieldsOf w)) := by
  unfold decode
  generalize fieldsOf w = f
  obtain ⟨op, rsv, arg⟩ := f
  dsimp only
  split
  · exact .inr ⟨_, rfl, .inr (.inr (.inl ‹_›))⟩
  · obtain rfl : rsv = 0#12 := not_not.mp ‹_›
    split
    case h_2 hop =>
      obtain rfl := op_eq_of_toNat_eq hop
      exact .inl ⟨_, rfl, rfl⟩
    case h_3 hop =>
      obtain rfl := op_eq_of_toNat_eq hop
      split
      · exact .inl ⟨_, rfl, fields_eq_iff.mpr ⟨rfl, rfl, eq_zeroExtend_selector_iff.mpr ⟨‹_›, rfl⟩⟩⟩
      · exact .inr ⟨_, rfl, .inr (.inr (.inr (.inr ⟨rfl, ‹_›⟩)))⟩
    case h_7 =>
      simp only [imp_false] at *
      have hop : op.toNat = 0 ∨ 7 ≤ op.toNat := by omega
      exact .inr ⟨_, rfl, hop.imp op_eq_of_toNat_eq .inl⟩
    all_goals
      rename_i hop
      obtain rfl := op_eq_of_toNat_eq hop
      unfold withoutOperand
      split
      · subst arg
        exact .inl ⟨_, rfl, rfl⟩
      · exact .inr ⟨_, rfl, .inr (.inr (.inr (.inl ⟨by simp, ‹_›⟩)))⟩

theorem fieldsOf_of_decode {w : Word} {i : Instr} (h : decode w = .ok i) : fieldsOf w = fieldsOfInstr i := by
  rcases decode_cases w with ⟨j, hj, hf⟩ | ⟨e, he, _⟩
  · cases h.symm.trans hj
    exact hf
  · cases h.symm.trans he

theorem decode_of_fieldsOf {w : Word} {i : Instr} (h : fieldsOf w = fieldsOfInstr i) : decode w = .ok i := by
  cases i with
  | setcg v =>
    obtain ⟨hhigh, hlow⟩ := setcg_arg v
    simp [decode, h, fieldsOfInstr, Instr.op, hhigh, ← hlow]
  | _ => simp [decode, h, fieldsOfInstr, Instr.op, Instr.arg, withoutOperand]

/-- R88: a word decodes to a command exactly when its fields are the command's. -/
theorem decode_eq_ok_iff {w : Word} {i : Instr} : decode w = .ok i ↔ fieldsOf w = fieldsOfInstr i :=
  ⟨fieldsOf_of_decode, decode_of_fieldsOf⟩

/-- R87, R88: the decoder refuses the reserved words and no other. -/
theorem decode_eq_error_iff (w : Word) : (∃ e, decode w = .error e) ↔ Reserved (fieldsOf w) := by
  rcases decode_cases w with ⟨i, hi, hf⟩ | ⟨e, he, hf⟩
  · rw [hf, hi]
    exact iff_of_false (fun ⟨_, h⟩ => nomatch h) (not_reserved_fieldsOfInstr i)
  · exact iff_of_true ⟨e, he⟩ hf

/-- A word decodes to a command exactly when it is the command's word. -/
theorem decode_eq_ok_iff_eq_encode {w : Word} {i : Instr} : decode w = .ok i ↔ w = encode i := by
  rw [decode_eq_ok_iff, ← wordOf_eq_iff, encode_eq, eq_comm]

/-! ### The opcode map -/

/-- A mask that keeps `OP` and `RSV` whole and a match value with `RSV = 0`, in terms of the fields. -/
theorem masked_eq_iff (w : Word) (op : BitVec 4) (mask arg : BitVec 16) :
    w &&& wordOf ⟨.allOnes 4, .allOnes 12, mask⟩ = wordOf ⟨op, 0#12, arg⟩ ↔
      (fieldsOf w).op = op ∧ (fieldsOf w).rsv = 0#12 ∧ (fieldsOf w).arg &&& mask = arg := by
  rw [eq_comm, wordOf_eq_iff, fieldsOf_and, fieldsOf_wordOf, BitVec.and_allOnes, BitVec.and_allOnes, fields_eq_iff]

/-- The mask of `SETCG` looks at `ARG[15:2]` (R86). -/
theorem and_selectorMask_eq_zero_iff {arg : BitVec 16} :
    arg &&& 0xFFFC#16 = 0#16 ↔ arg.extractLsb' 2 14 = 0#14 := by
  have hmask : arg &&& 0xFFFC#16 = arg.extractLsb' 2 14 ++ 0#2 := by
    calc arg &&& 0xFFFC#16
        = (arg.extractLsb' 2 14 ++ arg.extractLsb' 0 2) &&& (BitVec.allOnes 14 ++ 0#2) := by rw [arg_eq_append]; rfl
      _ = arg.extractLsb' 2 14 ++ 0#2 := by rw [BitVec.and_append, BitVec.and_allOnes, BitVec.and_zero]
  rw [hmask]
  exact BitVec.append_left_inj (s₂ := 0#14) 0#2

/-- The row of a command without operand fixes every bit. -/
theorem decode_iff_wholeMask (w : Word) (i : Instr) : decode w = .ok i ↔ w &&& 0xFFFFFFFF#32 = encode i := by
  have hmask : w &&& 0xFFFFFFFF#32 = w := BitVec.and_allOnes
  rw [hmask, decode_eq_ok_iff_eq_encode]

theorem decode_rdavg_iff (w : Word) (c : Count) :
    decode w = .ok (.rdavg c) ↔ w &&& 0xFFFF0000#32 = 0x20000000#32 ∧ c = (fieldsOf w).arg := by
  have hrow : w &&& 0xFFFF0000#32 = 0x20000000#32 ↔
      (fieldsOf w).op = 2#4 ∧ (fieldsOf w).rsv = 0#12 ∧ (fieldsOf w).arg &&& 0#16 = 0#16 :=
    masked_eq_iff w 2#4 0#16 0#16
  rw [decode_eq_ok_iff, fieldsOfInstr, fields_eq_iff, hrow, BitVec.and_zero, eq_comm (a := c)]
  simp only [Instr.op, Instr.arg, and_true, and_assoc]

theorem decode_setcg_iff (w : Word) (v : Selector) :
    decode w = .ok (.setcg v) ↔
      w &&& 0xFFFFFFFC#32 = 0x30000000#32 ∧ v = (fieldsOf w).arg.extractLsb' 0 2 := by
  have hrow : w &&& 0xFFFFFFFC#32 = 0x30000000#32 ↔
      (fieldsOf w).op = 3#4 ∧ (fieldsOf w).rsv = 0#12 ∧ (fieldsOf w).arg &&& 0xFFFC#16 = 0#16 :=
    masked_eq_iff w 3#4 0xFFFC#16 0#16
  rw [decode_eq_ok_iff, fieldsOfInstr, fields_eq_iff, hrow, and_selectorMask_eq_zero_iff, and_assoc, and_assoc,
    ← eq_zeroExtend_selector_iff]
  rfl

/-- Every mask keeps `OP` whole, so a word of a row has the row's opcode. -/
theorem op_of_covers {r : OpcodeRow} (hr : r ∈ opcodeTable) {w : Word} (hw : r.covers w = true) :
    (fieldsOf w).op = (fieldsOf r.matched).op := by
  have hmask : ∀ r ∈ opcodeTable, (fieldsOf r.mask).op = BitVec.allOnes 4 := by decide
  have hmatch : w &&& r.mask = r.matched := eq_of_beq hw
  rw [← hmatch, fieldsOf_and, hmask r hr, BitVec.and_allOnes]

/-- The opcode alone tells the rows apart. -/
theorem row_eq_of_op_eq : ∀ r₁ ∈ opcodeTable, ∀ r₂ ∈ opcodeTable,
    (fieldsOf r₁.matched).op = (fieldsOf r₂.matched).op → r₁ = r₂ := by
  decide

/-! ### An illegal word -/

/-- R140: an accepted illegal word is a failure with `ILLEGAL_COMMAND`. -/
theorem step_of_illegal {s : State} {e : Illegal} (hr : (portNow s).rst_i = false) (hst : s.st = .idle)
    (hv : (portNow s).cmd_valid_i = true) (hd : decode (portNow s).cmd_word_i = .error e) :
    step s = .next (failWith .illegalCommand (beginCycle s)) := by
  rw [step_of_idle hr hst, idleRule, if_pos hv, hd]

/-! ### The obligations about the encoding -/

/-- Settles O2: the fields of the word of a command are the command's. -/
theorem decodeInvertsEncode : Obligations.DecodeInvertsEncode :=
  fun _ => decode_eq_ok_iff_eq_encode.mpr rfl

/-- Settles O3: a decoded word has the command's fields, and the fields are all of its bits. -/
theorem encodeInvertsDecode : Obligations.EncodeInvertsDecode :=
  fun _ _ h => (decode_eq_ok_iff_eq_encode.mp h).symm

/-- Settles O4: each row read as conditions on the three fields; the opcodes keep the rows apart. -/
theorem decodeFollowsOpcodeMap : Obligations.DecodeFollowsOpcodeMap := by
  constructor
  · intro w
    have hsel : (fieldsOf w).arg.extractLsb' 0 2 = w.extractLsb' 0 2 :=
      BitVec.extractLsb'_extractLsb'_of_le (by decide)
    exact ⟨decode_iff_wholeMask w .rdraw, decode_rdavg_iff w, hsel ▸ decode_setcg_iff w,
      decode_iff_wholeMask w .getcg, decode_iff_wholeMask w .pwrdn, decode_iff_wholeMask w .pwrup⟩
  · intro w r₁ r₂ h₁ h₂ hw₁ hw₂
    exact row_eq_of_op_eq r₁ h₁ r₂ h₂ ((op_of_covers h₁ hw₁).symm.trans (op_of_covers h₂ hw₂))

/-- Settles O5: the decoder's cases give the reserved words, and an accepted one is a failure response. -/
theorem illegalWordsAreTheReservedOnes : Obligations.IllegalWordsAreTheReservedOnes := by
  refine ⟨fun w => ?_, decodeInvertsEncode (.rdavg 0#16), fun _ => rfl, fun _ _ => step_of_illegal⟩
  have hhigh : (fieldsOf w).arg.extractLsb' 2 14 = w.extractLsb' 2 14 :=
    BitVec.extractLsb'_extractLsb'_of_le (by decide)
  rw [decode_eq_error_iff, Reserved, hhigh]
  rfl

/-- Settles O1: the words are those of the commands; the all-zero word has the reserved opcode 0. -/
theorem exampleWordsDecode : Obligations.ExampleWordsDecode :=
  ⟨decodeInvertsEncode .rdraw, decodeInvertsEncode (.rdavg 10#16), decodeInvertsEncode (.setcg selB32),
    decodeInvertsEncode .getcg, decodeInvertsEncode .pwrdn, decodeInvertsEncode .pwrup,
    (decode_eq_error_iff 0#32).mpr (.inl rfl)⟩

/-- Settles O6: R89's table holds the selector's numeric value, which tells the selectors apart. -/
theorem pulseCountIsTheSelectorValue : Obligations.PulseCountIsTheSelectorValue :=
  ⟨pulses_eq_toNat, rfl, rfl, rfl, rfl,
    fun u v _ _ h => BitVec.eq_of_toNat_eq ((pulses_eq_toNat u).symm.trans (h.trans (pulses_eq_toNat v)))⟩

end Sys2Proof.Machine
end

section
/-!
SUPPORT. The sequencer's own rules (`40_sequencer.md`): what a cycle shows (R97), what it leaves alone in `IDLE` (R98), when it
responds (R99), how long a phase lasts (R100), and the next-state table (R101).
-/

namespace Sys2Proof.Machine

/-! ### The end of a phase -/

theorem bitLoEnd_st_ne (s : State) : (bitLoEnd s).st ≠ .bitLo := by
  unfold bitLoEnd
  split
  · nofun
  · split <;> nofun

theorem pulseLoEnd_st_ne (s : State) : (pulseLoEnd s).st ≠ .pulseLo := by
  unfold pulseLoEnd
  split <;> nofun

/-- R100: the end-of-phase action of every timed state changes the state. -/
theorem stateRule_leaves_phase (run : Instr → State → Host.Outcome State Fault Refusal) (p : PortInputs) {s : State}
    (hst : s.st ∈ [SeqState.bitHi, .bitLo, .pulseHi, .pulseLo, .pdLo]) (hc : s.holdCnt = 0#_) :
    ∃ t, stateRule run p s = .next t ∧ t.st ≠ s.st := by
  simp only [List.mem_cons, List.not_mem_nil, or_false] at hst
  rcases hst with hst | hst | hst | hst | hst <;> rw [stateRule, hst] <;>
    refine ⟨_, congrArg Host.Outcome.next (duringPhase_ending _ s hc), ?_⟩
  · nofun
  · exact bitLoEnd_st_ne s
  · nofun
  · exact pulseLoEnd_st_ne s
  · nofun

/-- Settles O33: the count from `HOLD − 1` down to 0, and the action in the cycle that sees 0. -/
theorem phaseLastsHoldCycles : Obligations.PhaseLastsHoldCycles := by
  intro s hst hload hno
  constructor
  · intro n hn
    obtain ⟨c, hc, hrun⟩ := runFor_counting hst (hno.mono hn.le) (by rw [hload, holdReload_toNat]; omega)
    exact ⟨_, hrun, rfl, rfl, by rw [elapse_holdCnt, hc, hload, holdReload_toNat]⟩
  · rw [runFor_phase hst hload hno]
    exact stateRule_leaves_phase (s := phaseOver s) exec _ hst rfl

/-! ### Responses -/

/-- R99: a rule responds in the cycle of `s`. -/
def Responds (s : State) : Prop :=
  (s.st = .idle ∧ (portNow s).cmd_valid_i = true ∧ staysIdle (portNow s) = true) ∨
    (s.st = .done ∧ s.avgMode = false) ∨ s.st = .div ∨ (s.st = .pdLo ∧ s.holdCnt = 0#_)

/-- R99: a step without reset responds, or it leaves `RSTAT` and `RDATA` alone. -/
theorem StepCase.response_cases {s t : State} (h : StepCase s t) (hr : (portNow s).rst_i = false) :
    (Responds s ∧ t.rspv = true) ∨ (¬Responds s ∧ t.rspv = false ∧ t.rstat = s.rstat ∧ t.rdata = s.rdata) := by
  cases h with
  | reset hrst => exact absurd (hr.symm.trans hrst) (by decide)
  | illegal _ _ hst hv hd | rdavgZero _ hst hv hd | setcg _ _ hst hv hd | getcg _ hst hv hd | pwrup _ hst hv hd =>
    exact .inl ⟨.inl ⟨hst, hv, by simp [staysIdle, hv, hd]⟩, rfl⟩
  | doneRaw _ hst ha => exact .inl ⟨.inr (.inl ⟨hst, ha⟩), rfl⟩
  | divide _ hst => exact .inl ⟨.inr (.inr (.inl hst)), rfl⟩
  | pdLoEnd _ hst hc => exact .inl ⟨.inr (.inr (.inr ⟨hst, hc⟩)), rfl⟩
  | quiet _ hst hv => exact .inr ⟨by simp [Responds, hst, hv], rfl, rfl, rfl⟩
  | rdraw _ hst hv hd | pwrdn _ hst hv hd =>
    exact .inr ⟨by simp [Responds, hst, staysIdle, hv, hd], rfl, rfl, rfl⟩
  | rdavg c _ hst hv hd hc => exact .inr ⟨by simp [Responds, hst, staysIdle, hv, hd, hc], rfl, rfl, rfl⟩
  | counting _ hst hc =>
    refine .inr ⟨?_, rfl, rfl, rfl⟩
    rintro (⟨h, -⟩ | ⟨h, -⟩ | h | ⟨-, h⟩)
    · simp [h] at hst
    · simp [h] at hst
    · simp [h] at hst
    · exact hc h
  | doneMore _ hst ha | doneLast _ hst ha => exact .inr ⟨by simp [Responds, hst, ha], rfl, rfl, rfl⟩
  | slotWait _ hst | slotSeen _ hst | readyWait _ hst | readySeen _ hst | bitHiEnd _ hst | nextBit _ hst
  | lastBitNoPulse _ hst | lastBit _ hst | pulseHiEnd _ hst | nextPulse _ hst | lastPulse _ hst =>
    exact .inr ⟨by simp [Responds, hst], rfl, rfl, rfl⟩

/-- Settles O37: the cases of a step, each of which responds or leaves the response registers alone. -/
theorem responseRegistersChangeOnlyByAResponse : Obligations.ResponseRegistersChangeOnlyByAResponse := by
  intro s t hr hs
  rcases (step_cases hs).response_cases hr with ⟨hresp, hv⟩ | ⟨hnot, hv, hkept⟩
  · exact ⟨iff_of_true hv hresp, fun h => absurd (hv.symm.trans h) (by decide)⟩
  · exact ⟨iff_of_false (by simp [hv]) hnot, fun _ => hkept⟩

/-! ### The next-state table -/

/-- R101: a row of the table for the present cycle whose condition holds leads to `st'`. -/
def TableLeadsTo (s : State) (st' : SeqState) : Prop :=
  ∃ row ∈ transitionTable, row.source = s.st ∧ row.condition (portNow s) s = true ∧ row.target = st'

/-- The step answers a next state, in the sequencer state `st'`. -/
def StepLeadsTo (s : State) (st' : SeqState) : Prop := ∃ t, step s = .next t ∧ t.st = st'

theorem stepLeadsTo_of_next {s t : State} (h : step s = .next t) (st' : SeqState) : StepLeadsTo s st' ↔ t.st = st' := by
  simp [StepLeadsTo, h]

/-- The rows of R101 that start in `IDLE`. -/
theorem tableLeadsTo_of_idle {s : State} (hst : s.st = .idle) (st' : SeqState) : TableLeadsTo s st' ↔
    (staysIdle (portNow s) = true ∧ .idle = st') ∨
    (accepts (portNow s) .rdraw = true ∧ s.pwr = false ∧ .waitRdy = st') ∨
    (acceptsAverage (portNow s) = true ∧ s.pwr = false ∧ .waitSlot = st') ∨
    (accepts (portNow s) .pwrdn = true ∧ .pdLo = st') := by
  simp [TableLeadsTo, transitionTable, waitingRows, frameRows, closingRows, hst, and_assoc]

section
variable {s : State} (hr : (portNow s).rst_i = false) (st' : SeqState)
include hr

/-- R101 in `IDLE`: a row for each accepted command, and none for a read while PoweredDown. -/
theorem tableLeadsTo_idle_iff (hst : s.st = .idle) : TableLeadsTo s st' ↔ StepLeadsTo s st' := by
  rw [tableLeadsTo_of_idle hst, StepLeadsTo, step_of_idle hr hst, idleRule, staysIdle, accepts, accepts, acceptsAverage]
  cases hv : (portNow s).cmd_valid_i with
  | false => simp [hst]
  | true =>
    generalize decode (portNow s).cmd_word_i = o
    cases o with
    | error => simp [hst]
    | ok i =>
      cases i with
      | rdraw => cases hp : s.pwr <;> simp [exec, execRdraw, hp]
      | rdavg c =>
        by_cases hc : c = 0#16
        · simp [exec, execRdavg, hc, hst]
        · cases hp : s.pwr <;> simp [exec, execRdavg, hp, hc]
      | pwrdn => simp [exec, execPwrdn]
      | setcg | getcg | pwrup => simp [exec, execSetcg, execGetcg, execPwrup, hst]

/-- R101: in each state, the rows of the table that start there say what the state's rule does. -/
theorem tableLeadsTo_iff_stepLeadsTo : TableLeadsTo s st' ↔ StepLeadsTo s st' := by
  by_cases hidle : s.st = .idle
  · exact tableLeadsTo_idle_iff hr st' hidle
  simp only [TableLeadsTo, transitionTable, waitingRows, frameRows, closingRows, List.cons_append, List.nil_append,
    List.exists_mem_cons_iff, List.not_mem_nil, false_and, exists_false, or_false]
  cases hst : s.st with
  | idle => exact absurd hst hidle
  | waitSlot =>
    rw [stepLeadsTo_of_next (step_of_waitSlot hr hst), waitSlotRule]
    cases hslot : (portNow s).slot_i <;> simp [hst]
  | waitRdy =>
    rw [stepLeadsTo_of_next (step_of_waitRdy hr hst), waitRdyRule]
    cases hdout : (portNow s).dout_i <;> simp [hst]
  | bitHi =>
    rw [stepLeadsTo_of_next (step_of_bitHi hr hst), bitHiRule, duringPhase]
    by_cases hc : s.holdCnt = 0#_ <;> simp [hst, hc, bitHiEnd]
  | bitLo =>
    rw [stepLeadsTo_of_next (step_of_bitLo hr hst), bitLoRule, duringPhase, bitLoEnd]
    by_cases hc : s.holdCnt = 0#_
    · by_cases hb : s.bitCnt = 23#5
      · cases hp : pulses s.sel <;> simp [hc, hb, hp]
      · simp [hc, hb]
    · simp [hst, hc]
  | pulseHi =>
    rw [stepLeadsTo_of_next (step_of_pulseHi hr hst), pulseHiRule, duringPhase]
    by_cases hc : s.holdCnt = 0#_ <;> simp [hst, hc, pulseHiEnd]
  | pulseLo =>
    rw [stepLeadsTo_of_next (step_of_pulseLo hr hst), pulseLoRule, duringPhase, pulseLoEnd]
    by_cases hc : s.holdCnt = 0#_
    · by_cases hp : s.pulseCnt = 0#2 <;> simp [hc, hp]
    · simp [hst, hc]
  | done =>
    rw [stepLeadsTo_of_next (step_of_done hr hst), doneRule, doneAverageRule, doneRawRule]
    cases ha : s.avgMode with
    | false => simp [ha]
    | true => by_cases hrem : s.remain = 1#16 <;> simp [ha, hrem]
  | div =>
    rw [stepLeadsTo_of_next (step_of_div hr hst), divRule]
    simp
  | pdLo =>
    rw [stepLeadsTo_of_next (step_of_pdLo hr hst), pdLoRule, duringPhase]
    by_cases hc : s.holdCnt = 0#_ <;> simp [hst, hc, pdLoEnd]

end

/-- Settles O34: table and step lead to the same states. -/
theorem nextStateTableIsExact : Obligations.NextStateTableIsExact := by
  refine ⟨fun s t hr hs => ?_, fun s row hrow hr hsrc hcond => ?_, fun s hr => ⟨_, step_of_reset hr, rfl⟩⟩
  · exact (tableLeadsTo_iff_stepLeadsTo hr t.st).mpr ⟨t, hs, rfl⟩
  · exact (tableLeadsTo_iff_stepLeadsTo hr row.target).mp ⟨row, hrow, hsrc, hcond, rfl⟩

/-! ### `IDLE` and the outputs -/

/-- Settles O8: the rule of `IDLE` without a command. -/
theorem idleWithoutCommandChangesNothing : Obligations.IdleWithoutCommandChangesNothing := by
  intro s hr hst hv
  rw [step_of_idle hr hst, idleRule, if_neg (by simp [hv])]
  rfl

/-- Settles O13: `outputs` reads registers, and `drive` writes none of them. -/
theorem outputsDependOnTheStateAlone : Obligations.OutputsDependOnTheStateAlone :=
  fun _ _ => ⟨rfl, decide_eq_true_iff, decide_eq_true_iff, rfl, rfl, rfl, rfl⟩

end Sys2Proof.Machine
end

section
/-!
SUPPORT. The event trace of a raw read (`40_sequencer.md` R102): cycle by cycle while the block waits or counts, phase by phase
along a frame.
-/

namespace Sys2Proof.Machine

/-! ### The events of one cycle -/

/-- A busy block that stays so accepts nothing and shows no response. -/
theorem eventsOf_of_busy {s t : State} (hs : s.st ≠ .idle) (ht : t.rspv = false) :
    eventsOf s t = inputEvents s ++ edgeEvents s t := by
  simp [eventsOf, acceptEvents, respondEvents, hs, ht]

theorem inputEvents_eq_nil {s : State} (h1 : s.st ≠ .waitSlot) (h2 : s.st ≠ .waitRdy)
    (h3 : s.st = .bitHi → s.holdCnt ≠ 0#_) : inputEvents s = [] := by
  cases hst : s.st with
  | waitSlot => exact absurd hst h1
  | waitRdy => exact absurd hst h2
  | bitHi => simp [inputEvents, hst, h3 hst]
  | _ => simp [inputEvents, hst]

theorem edgeEvents_of_sck_eq {s t : State} (h : t.sck = s.sck) : edgeEvents s t = [] := by
  cases hs : s.sck <;> simp [edgeEvents, h, hs]

theorem edgeEvents_rise {s t : State} (hs : s.sck = false) (ht : t.sck = true) : edgeEvents s t = [.rise] := by
  simp [edgeEvents, hs, ht]

theorem edgeEvents_fall {s t : State} (hs : s.sck = true) (ht : t.sck = false) : edgeEvents s t = [.fall] := by
  simp [edgeEvents, hs, ht]

/-! ### Traces of runs -/

/-- The trace of a run goes on with the trace from the state it leads to. -/
theorem traceFor_add {s t : State} (a b : Nat) (h : runFor a s = .next t) :
    traceFor (a + b) s = traceFor a s ++ traceFor b t := by
  induction a generalizing s with
  | zero =>
    cases h
    rw [Nat.zero_add]
    rfl
  | succ a ih =>
    rw [Nat.succ_add]
    cases hs : step s with
    | next u =>
      rw [runFor_succ_of_next a hs] at h
      rw [traceFor_succ_of_next _ hs, traceFor_succ_of_next _ hs, ih h, List.append_assoc]
    | fault | refused => simp [runFor, hs] at h

/-- One more cycle at the end of a trace. -/
theorem traceFor_succ_last {s t u : State} {n : Nat} (ht : runFor n s = .next t) (hu : runFor (n + 1) s = .next u) :
    traceFor (n + 1) s = traceFor n s ++ eventsOf t u := by
  have hstep : step t = .next u := (runFor_succ_last ht).symm.trans hu
  rw [traceFor_add n 1 ht, traceFor_succ_of_next 0 hstep, traceFor, List.append_nil]

theorem traceFor_eq_nil {s : State} (n : Nat)
    (h : ∀ k < n, ∃ t u, runFor k s = .next t ∧ runFor (k + 1) s = .next u ∧ eventsOf t u = []) : traceFor n s = [] := by
  induction n with
  | zero => rfl
  | succ n ih =>
    obtain ⟨t, u, ht, hu, hquiet⟩ := h n (by omega)
    rw [traceFor_succ_last ht hu, ih fun k hk => h k (by omega), hquiet, List.append_nil]

/-- R102, R105: waiting for data-ready has no event. -/
theorem traceFor_waitRdy {s : State} {n : Nat} (hst : s.st = .waitRdy) (hno : NoReset s n)
    (hwait : ∀ k < n, (portAt s k).dout_i = true) : traceFor n s = [] := by
  have hrun : ∀ k ≤ n, runFor k s = .next (elapse k s) := fun k hk =>
    runFor_waitRdy hst (hno.mono hk) fun i hi => hwait i (by omega)
  refine traceFor_eq_nil n fun k hk => ⟨_, _, hrun k hk.le, hrun (k + 1) hk, ?_⟩
  rw [eventsOf_of_busy (by simp [hst]) (by simp [elapse]), edgeEvents_of_sck_eq (by rfl)]
  simp [inputEvents, hst, portNow_elapse, hwait k hk]

/-- R102, R105: data-ready and the rise of the first data pulse. -/
theorem traceFor_readySeen {s : State} {n : Nat} (hst : s.st = .waitRdy) (hsck : s.sck = false) (hno : NoReset s (n + 1))
    (hready : FirstReady s 0 n) : traceFor (n + 1) s = [.ready, .rise] := by
  have ⟨_, hwait, hseen⟩ := hready
  have hwait' : ∀ k < n, (portAt s k).dout_i = true := fun k hk => hwait k (Nat.zero_le k) hk
  have hno' : NoReset s n := hno.mono (by omega)
  rw [traceFor_succ_last (runFor_waitRdy hst hno' hwait') (runFor_readySeen hst hno hready),
    traceFor_waitRdy hst hno' hwait', eventsOf_of_busy (by simp [hst]) (by simp [elapse]),
    edgeEvents_rise (by exact hsck) (by rfl)]
  simp [inputEvents, hst, portNow_elapse, hseen]

/-- R100, R102: counting down has no event. -/
theorem traceFor_counting {s : State} {n : Nat} (hst : s.st ∈ [SeqState.bitHi, .bitLo, .pulseHi, .pulseLo, .pdLo])
    (hno : NoReset s n) (hn : n ≤ s.holdCnt.toNat) : traceFor n s = [] := by
  have hst_ne : ∀ st ∉ [SeqState.bitHi, .bitLo, .pulseHi, .pulseLo, .pdLo], s.st ≠ st := fun st hmem h => hmem (h ▸ hst)
  refine traceFor_eq_nil n fun k hk => ?_
  obtain ⟨c, hc, hrun⟩ := runFor_counting hst (hno.mono hk.le) (by omega)
  obtain ⟨c', -, hrun'⟩ := runFor_counting hst (hno.mono hk) (by omega)
  have hne : c ≠ 0#_ := by
    rintro rfl
    rw [BitVec.toNat_ofNat, Nat.zero_mod] at hc
    omega
  refine ⟨_, _, hrun, hrun', ?_⟩
  rw [eventsOf_of_busy (by exact hst_ne .idle (by decide)) (by simp [elapse]), edgeEvents_of_sck_eq (by rfl),
    inputEvents_eq_nil (by exact hst_ne .waitSlot (by decide)) (by exact hst_ne .waitRdy (by decide)) fun _ => hne]
  rfl

/-- The last cycle of a phase that starts in `s`. -/
def phaseLast (s : State) : State := elapse (Config.hold - 1) { s with holdCnt := 0#_ }

/-- R100, R102: the events of a phase are those of its last cycle. -/
theorem traceFor_phase {s t : State} (hst : s.st ∈ [SeqState.bitHi, .bitLo, .pulseHi, .pulseLo, .pdLo])
    (hload : s.holdCnt = holdReload) (hno : NoReset s Config.hold) (hrun : runFor Config.hold s = .next t)
    (ht : t.st ≠ .idle) : traceFor Config.hold s = inputEvents (phaseLast s) ++ edgeEvents s t := by
  have hlen : Config.hold - 1 + 1 = Config.hold := Nat.sub_add_cancel hold_pos
  have hcnt : s.holdCnt.toNat = Config.hold - 1 := by rw [hload, holdReload_toNat]
  have hno' : NoReset s (Config.hold - 1) := hno.mono (Nat.sub_le _ _)
  have hcount : runFor (Config.hold - 1) s = .next (phaseLast s) := by
    obtain ⟨c, hc, hcount⟩ := runFor_counting hst hno' hcnt.ge
    obtain rfl : c = 0#_ := BitVec.eq_of_toNat_eq (by rw [hc, hcnt]; simp)
    exact hcount
  rw [← hlen] at hrun
  have hstep : step (phaseLast s) = .next t := (runFor_succ_last hcount).symm.trans hrun
  have hbusy : (phaseLast s).st ≠ .idle := fun h => by simp [show s.st = .idle from h] at hst
  rw [← hlen, traceFor_succ_last hcount hrun, traceFor_counting hst hno' hcnt.ge,
    eventsOf_of_busy hbusy ((step_cases hstep).rspv_of_busy ht)]
  rfl

theorem inputEvents_phaseLast_eq_nil {s : State} (hst : s.st ∈ [SeqState.bitLo, .pulseHi, .pulseLo]) :
    inputEvents (phaseLast s) = [] := by
  simp only [List.mem_cons, List.not_mem_nil, or_false] at hst
  have hst' : (phaseLast s).st = s.st := rfl
  rcases hst with hst | hst | hst <;> simp [inputEvents, hst', hst]

theorem inputEvents_phaseLast_bitHi {s : State} (hst : s.st = .bitHi) :
    inputEvents (phaseLast s) = [.sample (portAt s (Config.hold - 1)).dout_i] := by
  have hnow : portNow (phaseLast s) = portAt s (Config.hold - 1) := portNow_elapse _ _
  have hst' : (phaseLast s).st = .bitHi := hst
  simp only [inputEvents, hst', hnow]
  exact if_pos rfl

/-! ### The trace of a frame -/

/-- The first `n` data pulses of a word (R102). -/
def firstDataPulses (w : Raw) (n : Nat) : List Event := (List.range n).flatMap fun k => dataPulse (w.getLsbD (23 - k))

theorem firstDataPulses_succ (w : Raw) (n : Nat) :
    firstDataPulses w (n + 1) = firstDataPulses w n ++ dataPulse (w.getLsbD (23 - n)) := by
  simp [firstDataPulses, List.range_succ]

theorem selectorPulses_succ_last (n : Nat) : selectorPulses (n + 1) = selectorPulses n ++ [.rise, .fall] := by
  induction n with
  | zero => rfl
  | succ n ih => exact congrArg ([.rise, .fall] ++ ·) ih

section
variable {s : State} {r : Nat} {w : Raw} (hst : s.st = .waitRdy) (hsck : s.sck = false)
  (hno : NoReset s (r + 1 + frameCycles s.sel)) (hready : FirstReady s 0 r) (hw : CarriesWord s r w)

include hno in
/-- The trace of a frame, one phase after another: phase `i` starts in `t`, the next in `u`. -/
theorem traceFor_nextPhase {t u : State} {i : Nat} (ht : runFor (r + 1 + i * Config.hold) s = .next t)
    (hu : runFor (r + 1 + (i + 1) * Config.hold) s = .next u) (hi : i < 2 * (24 + pulses s.sel))
    (htimed : t.st ∈ [SeqState.bitHi, .bitLo, .pulseHi, .pulseLo, .pdLo]) (hload : t.holdCnt = holdReload)
    (hbusy : u.st ≠ .idle) :
    traceFor (r + 1 + (i + 1) * Config.hold) s =
      traceFor (r + 1 + i * Config.hold) s ++ (inputEvents (phaseLast t) ++ edgeEvents t u) := by
  obtain ⟨hnot, -⟩ := runFor_nextPhase hno ht hi
  rw [Nat.succ_mul, ← Nat.add_assoc] at hu ⊢
  rw [traceFor_add _ _ ht, traceFor_phase htimed hload hnot ((runFor_add _ _ ht).symm.trans hu) hbusy]

include hno in
/-- The same for a phase that samples nothing. -/
theorem traceFor_nextEdge {t u : State} {i : Nat} (ht : runFor (r + 1 + i * Config.hold) s = .next t)
    (hu : runFor (r + 1 + (i + 1) * Config.hold) s = .next u) (hi : i < 2 * (24 + pulses s.sel))
    (htst : t.st ∈ [SeqState.bitLo, .pulseHi, .pulseLo]) (hload : t.holdCnt = holdReload) (hbusy : u.st ≠ .idle) :
    traceFor (r + 1 + (i + 1) * Config.hold) s = traceFor (r + 1 + i * Config.hold) s ++ edgeEvents t u := by
  have htimed : t.st ∈ [SeqState.bitHi, .bitLo, .pulseHi, .pulseLo, .pdLo] :=
    (show [SeqState.bitLo, .pulseHi, .pulseLo] ⊆ _ by decide) htst
  rw [traceFor_nextPhase hno ht hu hi htimed hload hbusy, inputEvents_phaseLast_eq_nil htst, List.nil_append]

include hst hno hready hw

/-- R106: the high phase of data pulse `k` ends with its sample and its fall. -/
theorem traceFor_dataFall {k : Nat} (hk : k < 24) :
    traceFor (r + 1 + (2 * k + 1) * Config.hold) s =
      traceFor (r + 1 + 2 * k * Config.hold) s ++ [.sample (w.getLsbD (23 - k)), .fall] := by
  obtain ⟨t, ht, hhigh⟩ := frame_dataHigh hst hno hready hw hk
  obtain ⟨u, hu, hlow⟩ := frame_dataLow hst hno hready hw hk
  rw [traceFor_nextPhase hno ht hu (by omega) hhigh.timed hhigh.holdCnt (by simp [hlow.st]),
    inputEvents_phaseLast_bitHi hhigh.st, dout_of_dataPulse hw ht hk, edgeEvents_fall hhigh.sck hlow.sck]
  rfl

/-- R107: the low phase of a data pulse but the last ends with the rise of the next. -/
theorem traceFor_dataRise {k : Nat} (hk : k + 1 < 24) :
    traceFor (r + 1 + 2 * (k + 1) * Config.hold) s = traceFor (r + 1 + (2 * k + 1) * Config.hold) s ++ [.rise] := by
  obtain ⟨t, ht, hlow⟩ := frame_dataLow hst hno hready hw (show k < 24 by omega)
  obtain ⟨u, hu, hhigh⟩ := frame_dataHigh hst hno hready hw hk
  rw [show 2 * (k + 1) = 2 * k + 1 + 1 by omega] at hu ⊢
  rw [traceFor_nextEdge hno ht hu (by omega) (by simp [hlow.st]) hlow.holdCnt (by simp [hhigh.st]),
    edgeEvents_rise hlow.sck hhigh.sck]

/-- R107: that of the last ends with the rise of the first selector pulse. -/
theorem traceFor_firstSelectorRise (hp : 0 < pulses s.sel) :
    traceFor (r + 1 + 2 * 24 * Config.hold) s = traceFor (r + 1 + (2 * 23 + 1) * Config.hold) s ++ [.rise] := by
  obtain ⟨t, ht, hlow⟩ := frame_dataLow hst hno hready hw (show 23 < 24 by omega)
  obtain ⟨u, hu, hhigh⟩ := frame_selectorHigh hst hno hready hw hp
  rw [← edgeEvents_rise hlow.sck hhigh.sck]
  exact traceFor_nextEdge hno ht hu (by omega) (by simp [hlow.st]) hlow.holdCnt (by simp [hhigh.st])

/-- R108: the high phase of a selector pulse ends with its fall. -/
theorem traceFor_selectorFall {j : Nat} (hj : j < pulses s.sel) :
    traceFor (r + 1 + (2 * (24 + j) + 1) * Config.hold) s = traceFor (r + 1 + 2 * (24 + j) * Config.hold) s ++ [.fall] := by
  obtain ⟨t, ht, hhigh⟩ := frame_selectorHigh hst hno hready hw hj
  obtain ⟨u, hu, hlow⟩ := frame_selectorLow hst hno hready hw hj
  rw [traceFor_nextEdge hno ht hu (by omega) (by simp [hhigh.st]) hhigh.holdCnt (by simp [hlow.st]),
    edgeEvents_fall hhigh.sck hlow.sck]

/-- R109: the low phase of a selector pulse but the last ends with the rise of the next. -/
theorem traceFor_selectorRise {j : Nat} (hj : j + 1 < pulses s.sel) :
    traceFor (r + 1 + 2 * (24 + (j + 1)) * Config.hold) s =
      traceFor (r + 1 + (2 * (24 + j) + 1) * Config.hold) s ++ [.rise] := by
  obtain ⟨t, ht, hlow⟩ := frame_selectorLow hst hno hready hw (show j < pulses s.sel by omega)
  obtain ⟨u, hu, hhigh⟩ := frame_selectorHigh hst hno hready hw hj
  rw [show 2 * (24 + (j + 1)) = 2 * (24 + j) + 1 + 1 by omega] at hu ⊢
  rw [traceFor_nextEdge hno ht hu (by omega) (by simp [hlow.st]) hlow.holdCnt (by simp [hhigh.st]),
    edgeEvents_rise hlow.sck hhigh.sck]

/-- R109, R113: the last low phase of a frame, which starts in `t`, ends without an edge. -/
theorem traceFor_lastPhase {t : State} {i : Nat} (ht : runFor (r + 1 + i * Config.hold) s = .next t)
    (hi : i + 1 = 2 * (24 + pulses s.sel)) (htst : t.st ∈ [SeqState.bitLo, .pulseHi, .pulseLo])
    (hload : t.holdCnt = holdReload) (hlow : t.sck = false) :
    traceFor (r + 1 + frameCycles s.sel) s = traceFor (r + 1 + i * Config.hold) s := by
  obtain ⟨d, hd, hdone⟩ := frame_done hst hno hready hw
  rw [frameCycles, ← hi] at hd ⊢
  rw [traceFor_nextEdge hno ht hd (by omega) htst hload (by simp [hdone.st]),
    edgeEvents_of_sck_eq (hdone.sck.trans hlow.symm), List.append_nil]

include hsck

/-- R102: up to the low phase of data pulse `k`, data-ready and `k + 1` data pulses. -/
theorem traceFor_dataLow {k : Nat} (hk : k < 24) :
    traceFor (r + 1 + (2 * k + 1) * Config.hold) s = .ready :: firstDataPulses w (k + 1) := by
  induction k with
  | zero =>
    have hrise := traceFor_readySeen hst hsck (hno.mono (by omega)) hready
    rw [traceFor_dataFall hst hno hready hw hk, Nat.mul_zero, Nat.zero_mul, Nat.add_zero, hrise]
    rfl
  | succ k ih =>
    rw [traceFor_dataFall hst hno hready hw hk, traceFor_dataRise hst hno hready hw hk, ih (by omega),
      firstDataPulses_succ w (k + 1), List.append_assoc]
    rfl

/-- R102: up to the low phase of selector pulse `j`, all data pulses too and `j + 1` selector pulses. -/
theorem traceFor_selectorLow {j : Nat} (hj : j < pulses s.sel) :
    traceFor (r + 1 + (2 * (24 + j) + 1) * Config.hold) s = .ready :: dataPulses w ++ selectorPulses (j + 1) := by
  induction j with
  | zero =>
    rw [traceFor_selectorFall hst hno hready hw hj, traceFor_firstSelectorRise hst hno hready hw hj,
      traceFor_dataLow hst hsck hno hready hw (show 23 < 24 by omega), List.append_assoc]
    rfl
  | succ j ih =>
    rw [traceFor_selectorFall hst hno hready hw hj, traceFor_selectorRise hst hno hready hw hj, ih (by omega),
      selectorPulses_succ_last (j + 1), List.append_assoc, List.append_assoc]
    rfl

/-- R102: the trace of a whole frame is `RAW`. -/
theorem traceFor_frame : traceFor (r + 1 + frameCycles s.sel) s = rawEvents w s.sel := by
  rw [rawEvents]
  cases hp : pulses s.sel with
  | zero =>
    obtain ⟨t, ht, hlow⟩ := frame_dataLow hst hno hready hw (show 23 < 24 by omega)
    rw [traceFor_lastPhase hst hno hready hw ht (by omega) (by simp [hlow.st]) hlow.holdCnt hlow.sck,
      traceFor_dataLow hst hsck hno hready hw (by omega), selectorPulses, List.append_nil]
    rfl
  | succ j =>
    obtain ⟨t, ht, hlow⟩ := frame_selectorLow hst hno hready hw (show j < pulses s.sel by omega)
    rw [traceFor_lastPhase hst hno hready hw ht (by omega) (by simp [hlow.st]) hlow.holdCnt hlow.sck,
      traceFor_selectorLow hst hsck hno hready hw (by omega)]
    rfl

end

/-! ### The trace of `RDRAW` -/

/-- R104: the cycle that accepts `RDRAW`. -/
theorem step_of_rdraw {s : State} (hr : (portNow s).rst_i = false) (hst : s.st = .idle) (hpwr : s.pwr = false)
    (hv : (portNow s).cmd_valid_i = true) (hd : decode (portNow s).cmd_word_i = .ok .rdraw) :
    step s = .next (rdrawAccepted (beginCycle s)) := by
  rw [step_of_running hr, stateRule_rdraw (s := beginCycle s) hst hpwr hv hd]

theorem eventsOf_rdraw {s : State} (hst : s.st = .idle) (hv : (portNow s).cmd_valid_i = true)
    (hd : decode (portNow s).cmd_word_i = .ok .rdraw) :
    eventsOf s (rdrawAccepted (beginCycle s)) = [.accept (some .rdraw)] := by
  rw [eventsOf, edgeEvents_of_sck_eq (by rfl)]
  simp [acceptEvents, inputEvents, respondEvents, rdrawAccepted, hst, hv, hd]

/-- R110: the cycle of `DONE` of a raw read. -/
theorem step_of_doneRaw {s : State} (hr : (portNow s).rst_i = false) (hst : s.st = .done) (ha : s.avgMode = false) :
    step s = .next (respond .ok s.sample { beginCycle s with st := .idle }) := by
  rw [step_of_running hr, stateRule_doneRaw (s := beginCycle s) _ hst ha]
  rfl

theorem eventsOf_doneRaw {s : State} (hst : s.st = .done) :
    eventsOf s (respond .ok s.sample { beginCycle s with st := .idle }) = [.respond 0#3 s.sample] := by
  rw [eventsOf, edgeEvents_of_sck_eq (by rfl)]
  simp [acceptEvents, inputEvents, respondEvents, hst, statusCode]

/-- Settles O50: acceptance, the frame, and the response of `DONE`. -/
theorem rawReadHasTheEventsOfTheTrace : Obligations.RawReadHasTheEventsOfTheTrace := by
  intro s r w hst hpwr hsck hv hd hno hready hw
  obtain ⟨r, rfl⟩ := Nat.exists_eq_add_of_le hready.1
  have haccept := step_of_rdraw (hno.now (by omega)) hst hpwr hv hd
  have hone : runFor 1 s = .next (rdrawAccepted (beginCycle s)) := runFor_succ_of_next 0 haccept
  have hno' : NoReset (rdrawAccepted (beginCycle s)) (r + 1 + frameCycles s.sel + 1) :=
    NoReset.after hone (hno.mono (by omega))
  have hnoFrame : NoReset (rdrawAccepted (beginCycle s)) (r + 1 + frameCycles s.sel) := hno'.mono (Nat.le_succ _)
  have hready' : FirstReady (rdrawAccepted (beginCycle s)) 0 r := FirstReady.after hone hready
  have hw' := CarriesWord.after hone hw
  obtain ⟨d, hrun, hdone⟩ := frame_done rfl hnoFrame hready' hw'
  have hraw : traceFor (r + 1 + frameCycles s.sel) (rdrawAccepted (beginCycle s)) = rawEvents w s.sel :=
    traceFor_frame (s := rdrawAccepted (beginCycle s)) rfl hsck hnoFrame hready' hw'
  have hrespond := step_of_doneRaw ((NoReset.after hrun hno').now Nat.one_pos) hdone.st (avgMode_of_outsideFrame hdone.kept)
  have hlen : 1 + r + 2 + frameCycles s.sel = r + 1 + frameCycles s.sel + 1 + 1 := by omega
  calc traceFor (1 + r + 2 + frameCycles s.sel) s
      = [.accept (some .rdraw)] ++ traceFor (r + 1 + frameCycles s.sel + 1) (rdrawAccepted (beginCycle s)) := by
        rw [hlen, traceFor_succ_of_next _ haccept, eventsOf_rdraw hst hv hd]
    _ = [.accept (some .rdraw)] ++ (rawEvents w s.sel ++ traceFor 1 d) := by
        rw [← hraw]
        exact congrArg _ (traceFor_add _ 1 hrun)
    _ = [.accept (some .rdraw)] ++ rawEvents w s.sel ++ [.respond 0#3 (w.signExtend 32)] := by
        rw [traceFor_succ_of_next 0 hrespond, eventsOf_doneRaw hdone.st, hdone.sample, List.append_assoc]
        rfl

end Sys2Proof.Machine
end

section
/-!
SUPPORT. The rules of a raw read (`41_readout.md`): its acceptance (R104), each state of a frame (R105 to R109), its response
(R110), and the value of a sample (R111).
-/

namespace Sys2Proof.Machine

/-! ### The selector pulses -/

/-- R89: the selector without post-read pulses is 0. -/
theorem pulses_eq_zero_iff (v : Selector) : pulses v = 0 ↔ v = 0#2 := by
  rw [pulses_eq_toNat]
  exact BitVec.toNat_inj (y := 0#2)

theorem pulsesAfterFirst_of_ne_zero : ∀ v : Selector, v ≠ 0#2 → pulsesAfterFirst v = v - 1#2 := by decide

/-! ### The end of a phase of a frame -/

section
variable {s : State} (hr : (portNow s).rst_i = false) (hc : s.holdCnt = 0#_)
include hr hc

theorem step_of_bitHi_ending (hst : s.st = .bitHi) : step s = .next (bitHiEnd (portNow s) (beginCycle s)) := by
  rw [step_of_bitHi hr hst, bitHiRule, duringPhase_ending _ (beginCycle s) hc]

theorem step_of_bitLo_ending (hst : s.st = .bitLo) : step s = .next (bitLoEnd (beginCycle s)) := by
  rw [step_of_bitLo hr hst, bitLoRule, duringPhase_ending _ (beginCycle s) hc]

theorem step_of_pulseHi_ending (hst : s.st = .pulseHi) : step s = .next (pulseHiEnd (beginCycle s)) := by
  rw [step_of_pulseHi hr hst, pulseHiRule, duringPhase_ending _ (beginCycle s) hc]

theorem step_of_pulseLo_ending (hst : s.st = .pulseLo) : step s = .next (pulseLoEnd (beginCycle s)) := by
  rw [step_of_pulseLo hr hst, pulseLoRule, duringPhase_ending _ (beginCycle s) hc]

end

section
variable {s : State}

theorem bitLoEnd_of_bitCnt_ne (h : s.bitCnt ≠ 23#5) :
    bitLoEnd s = { startPhase true s with bitCnt := s.bitCnt + 1#5, st := .bitHi } := if_pos h

/-- R107, R113: after the last data pulse, with no selector pulse. -/
theorem bitLoEnd_of_sel_eq_zero (h : s.bitCnt = 23#5) (hsel : s.sel = 0#2) :
    bitLoEnd s = { s with sample := sext32 s.shift, st := .done } := by
  rw [bitLoEnd, if_neg (not_not.mpr h), if_pos ((pulses_eq_zero_iff _).mpr hsel)]

/-- R107: after the last data pulse, with a selector pulse. -/
theorem bitLoEnd_of_sel_ne_zero (h : s.bitCnt = 23#5) (hsel : s.sel ≠ 0#2) :
    bitLoEnd s =
      { startPhase true s with sample := sext32 s.shift, pulseCnt := s.sel - 1#2, st := .pulseHi } := by
  rw [bitLoEnd, if_neg (not_not.mpr h), if_neg (mt (pulses_eq_zero_iff _).mp hsel), pulsesAfterFirst_of_ne_zero _ hsel]

theorem pulseLoEnd_of_pulseCnt_ne (h : s.pulseCnt ≠ 0#2) :
    pulseLoEnd s = { startPhase true s with pulseCnt := s.pulseCnt - 1#2, st := .pulseHi } := if_pos h

theorem pulseLoEnd_of_pulseCnt_eq (h : s.pulseCnt = 0#2) : pulseLoEnd s = { s with st := .done } :=
  if_neg (not_not.mpr h)

end

/-! ### The value of a sample -/

/-- R17: the value of a two's complement word, by its sign bit. -/
theorem raw_toInt_eq_sub_sign (w : Raw) : w.toInt = (w.toNat : Int) - 2 ^ 24 * (w.getLsbD 23).toNat := by
  rw [BitVec.toInt_eq_msb_cond, BitVec.msb_eq_getLsbD_last]
  cases w.getLsbD 23 <;> simp

/-- Appending an unsigned byte below a signed word that is not empty. -/
theorem toInt_append_byte {n : Nat} (u : BitVec (n + 1)) (v : BitVec 8) : (u ++ v).toInt = u.toInt * 256 + v.toNat := by
  simp [BitVec.toInt_append, Int.mul_comm]

/-- R111: the value of a word from its three bytes, the highest of them signed. -/
theorem raw_toInt_eq_bytes (w : Raw) :
    w.toInt = (w.extractLsb' 16 8).toInt * 65536 + (w.extractLsb' 8 8).toNat * 256 + (w.extractLsb' 0 8).toNat := by
  have hlow : w.extractLsb' 8 16 ++ w.extractLsb' 0 8 = w := BitVec.extractLsb'_append_extractLsb'
  have hhigh : w.extractLsb' 16 8 ++ w.extractLsb' 8 8 = w.extractLsb' 8 16 :=
    BitVec.extractLsb'_append_extractLsb'_eq_extractLsb' rfl
  calc w.toInt
      = (w.extractLsb' 8 16).toInt * 256 + (w.extractLsb' 0 8).toNat := by rw [← toInt_append_byte, hlow]
    _ = ((w.extractLsb' 16 8).toInt * 256 + (w.extractLsb' 8 8).toNat) * 256 + (w.extractLsb' 0 8).toNat := by
        rw [← hhigh, toInt_append_byte]
    _ = _ := by ring

/-! ### The obligations about the states of a raw read -/

/-- Settles O43: sign extension keeps the value of the word. -/
theorem sampleIsTheSignedWord : Obligations.SampleIsTheSignedWord := by
  intro w
  obtain ⟨hlo, hhi⟩ := sext32_toInt_range w
  rw [sext32_toInt] at hlo hhi ⊢
  exact ⟨raw_toInt_eq_sub_sign w, raw_toInt_eq_bytes w, hlo, hhi⟩

/-- Settles O15: the arm of `RDRAW` in Normal. -/
theorem rawReadIsAccepted : Obligations.RawReadIsAccepted := by
  intro s hpwr
  rw [exec, execRdraw, if_neg (by simp [hpwr])]

/-- Settles O25: the rule of `WAIT_RDY` on both levels of the data line. -/
theorem waitReadyState : Obligations.WaitReadyState := by
  intro s hr hst
  constructor
  · intro hready
    rw [step_of_running hr, stateRule_readySeen (s := beginCycle s) hst hready]
    rfl
  · intro hwait
    rw [step_of_waitRdy hr hst, waitRdyRule, if_pos hwait]

/-- Settles O26: counting, and the end of the phase with the bits of the shifted register. -/
theorem dataPulseHighState : Obligations.DataPulseHighState := by
  intro s hr hst
  refine ⟨step_of_counting hr (by simp [hst]), fun hc => ⟨shiftIn s.shift (portNow s).dout_i, ?_, ?_, ?_⟩⟩
  · exact step_of_bitHi_ending hr hc hst
  · exact shiftIn_getLsbD _ _ 0 (by omega)
  · exact fun k hk => shiftIn_getLsbD _ _ (k + 1) (by omega)

/-- Settles O27: counting, and the three ways in which the low phase of a data pulse ends. -/
theorem dataPulseLowState : Obligations.DataPulseLowState := by
  intro s hr hst
  refine ⟨step_of_counting hr (by simp [hst]), fun hc hcnt => ?_, fun hc hcnt hsel => ?_, fun hc hcnt hsel => ?_⟩
  · rw [step_of_bitLo_ending hr hc hst, bitLoEnd_of_bitCnt_ne (s := beginCycle s) hcnt]
    rfl
  · rw [step_of_bitLo_ending hr hc hst, bitLoEnd_of_sel_eq_zero (s := beginCycle s) hcnt hsel]
    rfl
  · rw [step_of_bitLo_ending hr hc hst, bitLoEnd_of_sel_ne_zero (s := beginCycle s) hcnt hsel]
    rfl

/-- Settles O28: counting, the fall, and the two ways in which the low phase of a selector pulse ends. -/
theorem selectorPulseStates : Obligations.SelectorPulseStates := by
  intro s hr
  refine ⟨fun hst => ?_, fun hst hc => ?_, fun hst hc hcnt => ?_, fun hst hc hcnt => ?_⟩
  · exact step_of_counting hr (by rcases hst with hst | hst <;> simp [hst])
  · exact step_of_pulseHi_ending hr hc hst
  · rw [step_of_pulseLo_ending hr hc hst, pulseLoEnd_of_pulseCnt_ne (s := beginCycle s) hcnt]
    rfl
  · rw [step_of_pulseLo_ending hr hc hst, pulseLoEnd_of_pulseCnt_eq (s := beginCycle s) hcnt]

/-- Settles O29: the response of a raw read, with the status code of `OK` written out. -/
theorem rawReadResponds : Obligations.RawReadResponds :=
  fun _ => step_of_doneRaw

end Sys2Proof.Machine
end

section
/-!
SUPPORT. The whole raw read (`41_readout.md` R103) and the clock line of a frame, cycle by cycle (R114).
-/

namespace Sys2Proof.Machine

/-! ### The raw read -/

/-- R103, R110: a raw read that waits for the data-ready of cycle `r` responds with its sample after its frame and `DONE`. -/
theorem runFor_rawRead {s : State} {r : Nat} {w : Raw} (hst : s.st = .waitRdy) (havg : s.avgMode = false)
    (hno : NoReset s (r + 2 + frameCycles s.sel)) (hready : FirstReady s 0 r) (hw : CarriesWord s r w) :
    ∃ d, AtDone s w d ∧
      runFor (r + 2 + frameCycles s.sel) s = .next (respond .ok d.sample { beginCycle d with st := .idle }) := by
  have hlen : r + 2 + frameCycles s.sel = r + 1 + frameCycles s.sel + 1 := by omega
  rw [hlen] at hno ⊢
  obtain ⟨d, hrun, hdone⟩ := frame_done hst (hno.mono (by omega)) hready hw
  have hrd : (portNow d).rst_i = false := (NoReset.after hrun hno).now Nat.one_pos
  have havgd : d.avgMode = false := (avgMode_of_outsideFrame hdone.kept).trans havg
  exact ⟨d, hdone, (runFor_succ_last hrun).trans (step_of_doneRaw hrd hdone.st havgd)⟩

/-- Settles O48: acceptance, then the frame and the response of `DONE`; the other registers are outside the frame. -/
theorem rawReadReturnsTheWord : Obligations.RawReadReturnsTheWord := by
  intro s r w hst hpwr hv hd hno hready hw
  obtain ⟨r, rfl⟩ := Nat.exists_eq_add_of_le hready.1
  have haccept := step_of_rdraw (hno.now (by omega)) hst hpwr hv hd
  have hone : runFor 1 s = .next (rdrawAccepted (beginCycle s)) := runFor_succ_of_next 0 haccept
  have hlen : 1 + r + 2 + frameCycles s.sel = 1 + (r + 2 + frameCycles s.sel) := by omega
  rw [hlen] at hno ⊢
  obtain ⟨d, hdone, hrun⟩ :=
    runFor_rawRead rfl rfl (NoReset.after hone hno) (FirstReady.after hone hready) (CarriesWord.after hone hw)
  exact ⟨_, (runFor_add _ _ hone).trans hrun, rfl, hdone.sck, rfl, rfl, hdone.sample, hdone.sample, hdone.shift,
    avgMode_of_outsideFrame hdone.kept, (sel_of_outsideFrame hdone.kept :), (pwr_of_outsideFrame hdone.kept :),
    (acc_of_outsideFrame hdone.kept :), (count_of_outsideFrame hdone.kept :), (remain_of_outsideFrame hdone.kept :)⟩

/-! ### The waveform -/

/-- The bit shifted in last is the one read last (R36, R57). -/
theorem ReadBits.newest {w shift : Raw} {k : Nat} (h : ReadBits w (k + 1) shift) : shift.getLsbD 0 = w.getLsbD (23 - k) := by
  rw [h 0 k.succ_pos]
  congr 1
  omega

/-- R100, R114: `h` cycles into phase `i` of a frame, which starts in `t`, only `HOLDCNT` differs from its first cycle. -/
theorem runFor_intoPhase {s t : State} {r i h : Nat} (hno : NoReset s (r + 1 + frameCycles s.sel))
    (hi : i < 2 * (24 + pulses s.sel)) (hh : h < Config.hold) (hrun : runFor (r + 1 + i * Config.hold) s = .next t)
    (htimed : t.st ∈ [SeqState.bitHi, .bitLo, .pulseHi, .pulseLo, .pdLo]) (hload : t.holdCnt = holdReload) :
    ∃ c, runFor (r + 1 + i * Config.hold + h) s = .next (elapse h { t with holdCnt := c }) := by
  obtain ⟨hnot, -⟩ := runFor_nextPhase hno hrun hi
  obtain ⟨c, -, hcount⟩ := runFor_counting htimed (hnot.mono hh.le) (by rw [hload, holdReload_toNat]; omega)
  exact ⟨c, (runFor_add _ _ hrun).trans hcount⟩

/-- Settles O49: the first cycle of each phase of a frame, and the cycles after it, which only count. The word is whatever the
data line carries. -/
theorem frameHasTheWaveformOfTheTable : Obligations.FrameHasTheWaveformOfTheTable := by
  intro s r hst hno hready
  obtain ⟨w, hw⟩ := exists_carriesWord s r
  refine ⟨fun k h hk hh => ⟨?_, ?_⟩, fun j h hj hh => ⟨?_, ?_⟩, ?_⟩
  · obtain ⟨t, hrun, ht⟩ := frame_dataHigh hst hno hready hw hk
    obtain ⟨_, hinto⟩ := runFor_intoPhase hno (by omega) hh hrun ht.timed ht.holdCnt
    exact ⟨_, hinto, ht.st, ht.sck, ht.bitCnt⟩
  · obtain ⟨t, hrun, ht⟩ := frame_dataLow hst hno hready hw hk
    obtain ⟨_, hinto⟩ := runFor_intoPhase hno (by omega) hh hrun ht.timed ht.holdCnt
    exact ⟨_, hinto, ht.st, ht.sck, ht.bitCnt, ht.bits.newest.trans (hw k hk).symm⟩
  · obtain ⟨t, hrun, ht⟩ := frame_selectorHigh hst hno hready hw hj
    obtain ⟨_, hinto⟩ := runFor_intoPhase hno (by omega) hh hrun ht.timed ht.holdCnt
    exact ⟨_, hinto, ht.st, ht.sck⟩
  · obtain ⟨t, hrun, ht⟩ := frame_selectorLow hst hno hready hw hj
    obtain ⟨_, hinto⟩ := runFor_intoPhase hno (by omega) hh hrun ht.timed ht.holdCnt
    exact ⟨_, hinto, ht.st, ht.sck⟩
  · obtain ⟨t, hrun, ht⟩ := frame_done hst hno hready hw
    exact ⟨t, hrun, ht.st, ht.sck⟩

end Sys2Proof.Machine
end

section
/-!
SUPPORT. Truncating division (`42_average.md` R121), and the value of an average of samples (R120, R123, R124).
-/

namespace Sys2Proof.Machine

/-! ### Truncating division -/

/-- R121: the remainder of a truncating division is smaller than the divisor and is 0 or of the dividend's sign. -/
theorem tmod_is_remainder (a : Int) {b : Int} (hb : 0 < b) :
    |a.tmod b| < b ∧ (a.tmod b = 0 ∨ (a.tmod b).sign = a.sign) := by
  refine ⟨abs_lt.mpr ⟨Int.lt_tmod_of_pos a hb, Int.tmod_lt_of_pos a hb⟩, ?_⟩
  by_cases hdvd : b ∣ a
  · exact .inl (Int.tmod_eq_zero_of_dvd hdvd)
  · exact .inr ((Int.sign_tmod a b).trans (if_neg hdvd))

/-- R121: a quotient with such a remainder is the truncating one. The sign of the dividend bounds the remainder on one side,
its size on the other. -/
theorem tdiv_eq_of_remainder {a b q rem : Int} (hb : 0 < b) (ha : a = q * b + rem) (hlt : |rem| < b)
    (hsign : rem = 0 ∨ rem.sign = a.sign) : a.tdiv b = q := by
  obtain ⟨hlo, hhi⟩ := abs_lt.mp hlt
  have hsum : rem + b * q = a := by rw [ha]; ring
  have hsize : (b.natAbs : Int) = b := Int.natAbs_of_nonneg hb.le
  rcases le_total 0 a with hpos | hneg
  · have hrem : 0 ≤ rem := by
      rcases hsign with h | h
      · exact h.ge
      · rwa [← Int.sign_nonneg_iff, h, Int.sign_nonneg_iff]
    exact ((Int.tdiv_tmod_unique hpos hb.ne').mpr ⟨hsum, hrem, hsize.symm ▸ hhi⟩).1
  · have hrem : rem ≤ 0 := by
      rcases hsign with h | h
      · exact h.le
      · rwa [← Int.sign_nonpos_iff, h, Int.sign_nonpos_iff]
    exact ((Int.tdiv_tmod_unique' hneg hb.ne').mpr ⟨hsum, hsize.symm ▸ hlo, hrem⟩).1

theorem tdiv_of_nonneg {a : Int} (b : Nat) (ha : 0 ≤ a) : tdiv a b = a / (b : Int) := if_pos ha

theorem tdiv_of_neg {a : Int} (b : Nat) (ha : a < 0) : tdiv a b = -(-a / (b : Int)) := if_neg (not_le.mpr ha)

/-- Settles O44: the remainder of `Int.tdiv` is the one R121 asks for, and only its quotient has such a one. -/
theorem divisionTruncatesTowardZero : Obligations.DivisionTruncatesTowardZero := by
  intro a b hb
  have hpos : (0 : Int) < b := by exact_mod_cast hb
  refine ⟨fun q => ⟨fun hq => ?_, fun ⟨rem, ha, hlt, hsign⟩ => ?_⟩, fun ha => ?_, fun ha => ?_⟩
  · rw [hq, tdiv_eq_int_tdiv]
    exact ⟨a.tmod b, (Int.tdiv_mul_add_tmod a b).symm, tmod_is_remainder a hpos⟩
  · rw [tdiv_eq_int_tdiv]
    exact (tdiv_eq_of_remainder hpos ha hlt hsign).symm
  · rw [tdiv_of_nonneg b ha, Rat.floor_intCast_div_natCast]
  · rw [tdiv_of_neg b ha, ← Int.cast_neg, Rat.floor_intCast_div_natCast]

/-! ### The value of an average -/

section
variable {acc : Acc} {count : Count} (hcount : 1 ≤ count.toNat) (hacc : accWithin acc count.toNat)
include hcount hacc

/-- R123: the quotient of a sum of samples by their number is in the range of one sample. -/
theorem tdiv_sum_range : -8388608 ≤ acc.toInt.tdiv count.toNat ∧ acc.toInt.tdiv count.toNat ≤ 8388607 := by
  obtain ⟨hlo, hhi⟩ := hacc
  have hpos : (0 : Int) < count.toNat := by exact_mod_cast hcount
  constructor
  · calc (-8388608 : Int) = (-8388608 * (count.toNat : Int)).tdiv count.toNat := (Int.mul_tdiv_cancel _ hpos.ne').symm
      _ ≤ acc.toInt.tdiv count.toNat := Int.tdiv_le_tdiv hpos (by rwa [Int.neg_mul])
  · calc acc.toInt.tdiv count.toNat ≤ (8388607 * (count.toNat : Int)).tdiv count.toNat := Int.tdiv_le_tdiv hpos hhi
      _ = 8388607 := Int.mul_tdiv_cancel _ hpos.ne'

/-- R120: so it fits in the datum of the response. -/
theorem average_toInt : (average acc count).toInt = acc.toInt.tdiv count.toNat := by
  obtain ⟨hlo, hhi⟩ := tdiv_sum_range hcount hacc
  have hne : count ≠ 0#16 := by bv_omega
  rw [average_of_count_ne_zero acc hne, tdiv_eq_int_tdiv]
  exact BitVec.toInt_ofInt_eq_self (by decide) (by omega) (by omega)

end

/-- R124: `k` equal samples sum to what `k` samples can. -/
theorem mul_raw_range (k : Count) (v : Raw) :
    -(8388608 * (k.toNat : Int)) ≤ k.toNat * v.toInt ∧ k.toNat * v.toInt ≤ 8388607 * (k.toNat : Int) := by
  obtain ⟨hlo, hhi⟩ := raw_toInt_range v
  have hlow := mul_le_mul_of_nonneg_left hlo (Int.natCast_nonneg k.toNat)
  have hhigh := mul_le_mul_of_nonneg_left hhi (Int.natCast_nonneg k.toNat)
  omega

/-- R122, R124: so their sum fits in `ACC`. -/
theorem toInt_ofInt_mul_raw (k : Count) (v : Raw) : (BitVec.ofInt 40 (k.toNat * v.toInt)).toInt = k.toNat * v.toInt := by
  obtain ⟨hlo, hhi⟩ := mul_raw_range k v
  have hk := k.isLt
  exact BitVec.toInt_ofInt_eq_self (by decide) (by omega) (by omega)

theorem accWithin_mul_raw (k : Count) (v : Raw) : accWithin (BitVec.ofInt 40 (k.toNat * v.toInt)) k.toNat := by
  rw [accWithin, toInt_ofInt_mul_raw]
  exact mul_raw_range k v

/-- Settles O47: the quotient is exact, and `sext_32` keeps the value of the word. -/
theorem averageOfAConstantIsTheConstant : Obligations.AverageOfAConstantIsTheConstant := by
  intro k v hk
  have hne : (k.toNat : Int) ≠ 0 := by omega
  apply BitVec.eq_of_toInt_eq
  rw [average_toInt hk (accWithin_mul_raw k v), toInt_ofInt_mul_raw, Int.mul_tdiv_cancel_left _ hne, sext32_toInt]

end Sys2Proof.Machine
end

section
/-!
SUPPORT. The rules of an averaged read (`42_average.md`): its acceptance (R116, R117), its states (R118 to R120) with what the
invariant says of their values (R122, R123), and the whole command (R115).
-/

namespace Sys2Proof.Machine

/-! ### Acceptance -/

/-- Settles O16: the arm of `RDAVG` in Normal, for a count that is not 0. -/
theorem averagedReadIsAccepted : Obligations.AveragedReadIsAccepted := by
  intro s c hc hpwr
  have hne : c ≠ 0#16 := by bv_omega
  rw [exec, execRdavg, if_neg hne, if_neg (by simp [hpwr])]

/-- Settles O17: the count is looked at before the power state. -/
theorem averageOfZeroSamplesIsRefused : Obligations.AverageOfZeroSamplesIsRefused := by
  intro s
  rw [exec, execRdavg, if_pos rfl]
  rfl

/-! ### The states of an averaged read -/

/-- Settles O24: the rule of `WAIT_SLOT` on both levels of the slot input. -/
theorem waitSlotState : Obligations.WaitSlotState := by
  intro s hr hst
  constructor
  · intro hslot
    rw [step_of_waitSlot hr hst, waitSlotRule, if_pos hslot]
  · intro hwait
    rw [step_of_waitSlot hr hst, waitSlotRule, if_neg (by simp [hwait])]

section
variable {s : State} (hr : (portNow s).rst_i = false)
include hr

/-- R119: the cycle of `DONE` of an averaged read. -/
theorem step_of_doneAverage (hst : s.st = .done) (ha : s.avgMode = true) :
    step s = .next { beginCycle s with
      acc := accumulate s.acc s.sample, remain := s.remain - 1#16,
      st := if s.remain = 1#16 then .div else .waitSlot } := by
  rw [step_of_done hr hst, doneRule, if_pos (show (beginCycle s).avgMode = true from ha)]
  rfl

/-- R120: the cycle of `DIV`. -/
theorem step_of_divide (hst : s.st = .div) :
    step s = .next (respond .ok (average s.acc s.count) { beginCycle s with st := .idle }) :=
  step_of_div hr hst

end

/-- Settles O30: the test on `REMAIN` before the decrement, both ways. -/
theorem sampleIsAccumulated : Obligations.SampleIsAccumulated := by
  intro s hr hst ha
  rw [step_of_doneAverage hr hst ha]
  constructor
  · intro hlast
    rw [if_pos hlast]
    rfl
  · intro hmore
    rw [if_neg hmore]
    rfl

/-- Settles O31: the response of `DIV`, with the status code of `OK` and the average written out. -/
theorem averageResponds : Obligations.AverageResponds := by
  intro s hr hst hcount
  rw [step_of_divide hr hst, average_of_count_ne_zero s.acc hcount, tdiv_eq_int_tdiv]
  rfl

/-! ### The values under the invariant -/

/-- Settles O45: `ACC` holds fewer than `COUNT` samples, so one more neither overflows it nor takes it past what `COUNT`
samples can reach. -/
theorem accumulationIsExact : Obligations.AccumulationIsExact := by
  intro s hi hr hst ha
  obtain ⟨hpos, hle, hwithin⟩ := hi.averaging (by rw [hst]; decide) ha
  have hcount := s.count.isLt
  have htaken : s.count.toNat - s.remain.toNat ≤ 65535 := by omega
  obtain ⟨hlo, hhi⟩ := accWithin_accumulate hwithin htaken hi.sample_range
  refine ⟨_, step_of_doneAverage hr hst ha, accumulate_toInt hwithin htaken hi.sample_range, ?_, ?_⟩
  · exact le_trans (by omega) hlo
  · exact hhi.trans (by omega)

/-- Settles O46: the invariant bounds `ACC` by `COUNT` samples. -/
theorem averageIsInTheRangeOfASample : Obligations.AverageIsInTheRangeOfASample := by
  intro s hi hr hst
  obtain ⟨-, hcount, hwithin⟩ := hi.dividing hst
  have hvalue := average_toInt hcount hwithin
  refine ⟨_, step_of_divide hr hst, rfl, rfl, hvalue, ?_⟩
  rw [respond_rdata, hvalue]
  exact tdiv_sum_range hcount hwithin

/-! ### The averaged read -/

/-- Settles O51: `DIV`, after all the samples, divides their exact sum. -/
theorem averagedReadReturnsTheAverage : Obligations.AveragedReadReturnsTheAverage := by
  intro s c start slot ready w hst hpwr hv hd hc hstart hsamples hno
  obtain ⟨t, hrun, ht⟩ := runFor_samples hst hpwr hv hd hc hstart hsamples (hno.mono (Nat.le_succ _)) le_rfl
  have hdiv : t.st = .div := ht.st.trans (if_pos rfl)
  have hremain : t.remain = 0#16 := BitVec.eq_of_toNat_eq (ht.remain.trans (Nat.sub_self _))
  have hvalue : (average t.acc t.count).toInt = (sumOfWords w c.toNat).tdiv c.toNat := by
    rw [ht.count, average_toInt hc ht.within, ht.acc]
  have hrespond := step_of_divide ((NoReset.after hrun hno).now Nat.one_pos) hdiv
  exact ⟨_, (runFor_succ_last hrun).trans hrespond, rfl, ht.sck (.inl hc), rfl, rfl, hvalue, ht.acc, ht.count, hremain,
    ht.sel, ht.pwr⟩

end Sys2Proof.Machine
end

section
/-!
SUPPORT. The control commands (`43_control.md`): the selector (R128, R129), the power state (R132 to R135), and what the
block answers while PoweredDown (R136).
-/

namespace Sys2Proof.Machine

/-! ### What each control command does -/

/-- Settles O19: the arm of `SETCG`, with the status code of `OK` written out. -/
theorem selectorIsSet : Obligations.SelectorIsSet := by
  intro s v
  rw [exec, execSetcg, zext32]
  rfl

/-- Settles O20: the arm of `GETCG`, with the status code of `OK` written out. -/
theorem selectorIsRead : Obligations.SelectorIsRead := by
  intro s
  rw [exec, execGetcg, zext32]
  rfl

/-- Settles O21: the arm of `PWRDN` starts a low phase. -/
theorem powerDownStarts : Obligations.PowerDownStarts := by
  intro s
  rw [exec, execPwrdn]
  rfl

/-- Settles O22: the arm of `PWRUP`, with the status code of `OK` written out. -/
theorem powerUpIsImmediate : Obligations.PowerUpIsImmediate := by
  intro s
  rw [exec, execPwrup]
  rfl

/-! ### While PoweredDown -/

section
variable {s : State} (hpwr : s.pwr = true)
include hpwr

theorem exec_rdraw_of_poweredDown : exec .rdraw s = .fault .readWhilePoweredDown := by
  rw [exec, execRdraw, if_pos hpwr]

theorem exec_rdavg_of_poweredDown {c : Count} (hc : c ≠ 0#16) :
    exec (.rdavg c) s = .fault .readWhilePoweredDown := by
  rw [exec, execRdavg, if_neg hc, if_pos hpwr]

end

/-- Settles O18: the reads look at the power state, the other commands answer what they answer in either one. -/
theorem readWhilePoweredDownFaults : Obligations.ReadWhilePoweredDownFaults :=
  fun s _ v hpwr => ⟨exec_rdraw_of_poweredDown hpwr, exec_rdavg_of_poweredDown hpwr,
    ⟨_, averageOfZeroSamplesIsRefused s⟩, ⟨_, selectorIsSet s v⟩, ⟨_, selectorIsRead s⟩, ⟨_, powerDownStarts s⟩,
    ⟨_, powerUpIsImmediate s⟩⟩

/-! ### The power-down sequence -/

/-- R133: the cycle of `PD_LO` that sees 0. -/
theorem step_of_pdLo_ending {s : State} (hr : (portNow s).rst_i = false) (hc : s.holdCnt = 0#_) (hst : s.st = .pdLo) :
    step s = .next (pdLoEnd (beginCycle s)) := by
  rw [step_of_pdLo hr hst, pdLoRule, duringPhase_ending _ (beginCycle s) hc]

/-- Settles O32: counting, and the end of the low phase with the status code of `OK` written out. -/
theorem powerDownLowState : Obligations.PowerDownLowState :=
  fun _ hr hst => ⟨step_of_counting hr (by simp [hst]), fun hc => step_of_pdLo_ending hr hc hst⟩

/-- R100, R133: the low phase of `PWRDN` from its first cycle to its end. -/
theorem runFor_pdLo {s : State} (hload : s.holdCnt = holdReload) (hno : NoReset s Config.hold) (hst : s.st = .pdLo) :
    runFor Config.hold s = .next (pdLoEnd (phaseOver s)) := by
  rw [runFor_phase (by simp [hst]) hload hno, stateRule, phaseOver_st, hst]
  exact congrArg Host.Outcome.next (duringPhase_phaseOver _ s)

/-- The state a `PWRDN` accepted in the cycle of `s` leads to (R132). -/
def pwrdnAccepted (s : State) : State := { startPhase false s with st := .pdLo }

/-- R132, R135: acceptance, in either power state. -/
theorem step_of_pwrdn {s : State} (hr : (portNow s).rst_i = false) (hst : s.st = .idle)
    (hv : (portNow s).cmd_valid_i = true) (hd : decode (portNow s).cmd_word_i = .ok .pwrdn) :
    step s = .next (pwrdnAccepted (beginCycle s)) :=
  (stepRunsTheDecodedCommand s .pwrdn hr hst hv hd).trans (powerDownStarts (beginCycle s))

/-- Settles O23: acceptance, then the cycles of the low phase, which only count, and its end. -/
theorem powerDownSequence : Obligations.PowerDownSequence := by
  intro s hst hv hd hno
  have haccept := step_of_pwrdn (hno.now (Nat.succ_pos _)) hst hv hd
  have hno' : NoReset (pwrdnAccepted (beginCycle s)) Config.hold :=
    NoReset.after (runFor_succ_of_next 0 haccept) (Nat.add_comm _ 1 ▸ hno)
  constructor
  · intro n hn hle
    obtain ⟨m, rfl⟩ := Nat.exists_eq_add_of_le' hn
    have hload : (pwrdnAccepted (beginCycle s)).holdCnt.toNat = Config.hold - 1 := holdReload_toNat
    obtain ⟨c, -, hcount⟩ := runFor_counting (n := m) (by simp [pwrdnAccepted]) (hno'.mono (by omega)) (by rw [hload]; omega)
    exact ⟨_, (runFor_succ_of_next m haccept).trans hcount, rfl, rfl, rfl, rfl⟩
  · have hend := (runFor_succ_of_next Config.hold haccept).trans (runFor_pdLo rfl hno' rfl)
    exact ⟨_, hend, rfl, rfl, rfl, rfl, rfl, rfl, rfl, rfl, rfl, rfl, rfl, rfl, rfl, rfl, rfl⟩

end Sys2Proof.Machine
end

section
/-!
SUPPORT. Failures and waits (`60_exceptions.md`): what a failure response changes (R141), the waits without bound (R144), and the
order of the conditions of a cycle (R146).
-/

namespace Sys2Proof.Machine

/-! ### The failure response -/

/-- R138, R141: a step that ends in a response other than `OK` is a failure of the cycle that has begun. -/
theorem StepCase.eq_failWith {s t : State} (h : StepCase s t) (hv : t.rspv = true) (hfail : t.rstat ≠ 0#3) :
    ∃ r, t = failWith r (beginCycle s) := by
  cases h with
  | illegal => exact ⟨.illegalCommand, rfl⟩
  | rdavgZero => exact ⟨.preconditionViolation, rfl⟩
  | setcg | getcg | pwrup | doneRaw | divide | pdLoEnd => exact absurd rfl hfail
  | _ => cases hv

/-- Settles O38: a failure is a response with datum 0 and nothing else. -/
theorem failureChangesOnlyTheResponse : Obligations.FailureChangesOnlyTheResponse := by
  intro s t hs hv hfail
  obtain ⟨r, rfl⟩ := (step_cases hs).eq_failWith hv hfail
  rfl

/-! ### Waits -/

theorem elapse_rspv_of_pos {n : Nat} (s : State) (hn : 0 < n) : (elapse n s).rspv = false := by
  simp [elapse, hn.ne']

/-- Settles O52: a waiting block is only older after any number of cycles. -/
theorem waitsHaveNoBound : Obligations.WaitsHaveNoBound :=
  fun s _ hno =>
    ⟨fun hst hwait => ⟨_, runFor_waitRdy hst hno hwait, hst, rfl, elapse_rspv_of_pos s⟩,
      fun hst hwait => ⟨_, runFor_waitSlot hst hno hwait, hst, rfl, elapse_rspv_of_pos s⟩⟩

/-! ### The order of the conditions -/

/-- R26, R146: the rule of the state reads the command port in `IDLE` only. -/
theorem stateRule_command (run : Instr → State → Host.Outcome State Fault Refusal) (p : PortInputs) (valid : Bool)
    (word : Word) {s : State} (hidle : s.st ≠ .idle) :
    stateRule run { p with cmd_valid_i := valid, cmd_word_i := word } s = stateRule run p s := by
  unfold stateRule
  cases hst : s.st with
  | idle => exact absurd hst hidle
  | _ => rfl

/-- Settles O9: reset; the command port outside `IDLE`; a reserved field; the count 0 of `RDAVG`; the power state. -/
theorem priorityOfConditions : Obligations.PriorityOfConditions := by
  refine ⟨fun _ => step_of_reset, fun s valid word hidle => ?_, fun s hr hst hv _ hrsv _ => ?_,
    fun s hr hst hv hword => ?_, fun _ _ hc hpwr => ⟨exec_rdraw_of_poweredDown hpwr, exec_rdavg_of_poweredDown hpwr hc⟩⟩
  · rw [step_drive, step_eq s, stateRule_command exec (portNow s) valid word (s := beginCycle s) hidle]
  · obtain ⟨e, hd⟩ := (decode_eq_error_iff _).mpr (.inr (.inr (.inl hrsv)))
    exact step_of_illegal hr hst hv hd
  · have hd : decode (portNow s).cmd_word_i = .ok (.rdavg 0#16) := hword ▸ decodeInvertsEncode (.rdavg 0#16)
    exact (stepRunsTheDecodedCommand s _ hr hst hv hd).trans (averageOfZeroSamplesIsRefused (beginCycle s))

end Sys2Proof.Machine
end

section
/-!
SUPPORT. Reset (`70_reset_and_hazards.md` R156) and the length of a frame in time (R174, R114, under the timing contract R8).
-/

namespace Sys2Proof.Machine

/-- Settles O12: the cycle after reset is `resetCycle`, which takes each of the sixteen elements from `State.reset`. -/
theorem resetLeadsToResetState : Obligations.ResetLeadsToResetState :=
  fun _ hr => ⟨_, step_of_reset hr, by simp [resetCycle, State.reset]⟩

/-- Settles O54: a pulse has two phases of `HOLD` cycles, each at least 2 microseconds by the contract. -/
theorem frameLastsFourMicrosecondsAPulse : Obligations.FrameLastsFourMicrosecondsAPulse := by
  rintro fClkHz tPdMinNs v ⟨-, hsettle, -⟩
  calc (24 + pulses v) * 4 * fClkHz
      = 2 * (24 + pulses v) * (2 * fClkHz) := by ring
    _ ≤ 2 * (24 + pulses v) * (Config.hold * 1000000) := Nat.mul_le_mul_left _ hsettle
    _ = frameCycles v * 1000000 := (Nat.mul_assoc ..).symm

end Sys2Proof.Machine
end
